-- ==== Sys2Proof/Word.lean ====
section
/-! DEFINITION. The word types of MIXCORE: one register is a 32-bit word (00_scope.md R6 `W`, R8), one message
buffer entry and one opcode are a byte (10_state.md R30, 30_encoding.md R80), and the register space is indexed by
a 16-bit word index (20_memory.md R61). -/

namespace Sys2Proof

/-- A register value or a POCSAG/FLEX codeword: 32 bits (R6, R8). -/
abbrev Word := BitVec 32

/-- A message byte (R30). -/
abbrev Byte := BitVec 8

/-- A word index of the register address space (R61). -/
abbrev RegAddr := BitVec 16

end Sys2Proof
end

