-- ==== Sys2Proof/Machine/Bits.lean ====
section
/-! DEFINITION. Bit sequences and bit fields (00_scope.md R8 to R11), the even-parity function and the bit reversal
that several files of the spec use (40_primitives.md R102, R103). -/

namespace Sys2Proof.Machine

/-- The least integer at or above `a / b` (R9). -/
def ceilDiv (a b : Nat) : Nat := (a + b - 1) / b

/-- `bits_msb(v, n)` (R11): the bits of `v`, most significant first. -/
def bitsMsb {n : Nat} (v : BitVec n) : List Bool := (List.range n).map fun i => v.getLsbD (n - 1 - i)

/-- The bits of `v`, least significant first: a code "bit 0 transmitted first" (43_pocsag.md R194, R195). -/
def bitsLsb {n : Nat} (v : BitVec n) : List Bool := (List.range n).map fun i => v.getLsbD i

/-- The number whose bit `t` is `s[t]`. -/
def natOfBits : List Bool → Nat
  | [] => 0
  | b :: s => b.toNat + 2 * natOfBits s

/-- The `n`-bit value whose bit `t` is `s[t]` (44_flex.md R231). -/
def ofBitsLsb (n : Nat) (s : List Bool) : BitVec n := BitVec.ofNat n (natOfBits s)

/-- The `n`-bit value whose low `len(s)` bits are `s` read most significant bit first (43_pocsag.md R195). -/
def ofBitsMsb (n : Nat) (s : List Bool) : BitVec n := ofBitsLsb n s.reverse

/-- `s` filled up to `n` bits; the bit put at position `k` is `f k` (R194, R195, R231). -/
def fillTo (n : Nat) (f : Nat → Bool) (s : List Bool) : List Bool :=
  s ++ (List.range (n - s.length)).map fun i => f (s.length + i)

/-- The `j`-th run of `n` consecutive entries: `s[n·j .. n·j + n - 1]`. -/
def chunk {α : Type} (n j : Nat) (s : List α) : List α := (s.drop (n * j)).take n

/-- Each bit of `s` repeated `r` times (42_queue.md R160). -/
def repeatBits (r : Nat) (s : List Bool) : List Bool := s.flatMap fun b => List.replicate r b

/-- `popcount(v)` (R9). -/
def popcount {n : Nat} (v : BitVec n) : Nat := (bitsLsb v).count true

/-- `epar(x)` (R103): 1 exactly when the population count is odd. -/
def epar {n : Nat} (v : BitVec n) : Bool := popcount v % 2 == 1

/-- `rev32(x)` (R102): bit `31 - i` of the result is bit `i` of `x`. -/
def rev32 (x : Word) : Word := ofBitsLsb 32 (bitsMsb x)

/-- The sum of a list of field values as an exact integer (41_checksums.md, introduction). -/
def sumNat {n : Nat} (vs : List (BitVec n)) : Nat := (vs.map BitVec.toNat).sum

end Sys2Proof.Machine
end

