-- ==== Sys2Proof/Config.lean ====
section
/-! DEFINITION. What an implementation of MIXCORE fixes: the DECIDED sizes of 00_scope.md R6, the record `Params`
of its OPEN parameters (R6, R37), and `Config.params`, the parameters of the build at hand. Every OPEN parameter
of `Config.params` is an opaque constant with no body, so nothing can be proved of its value beyond the constraint
R6 states; the constraints themselves (FIFO_CAP at least 1, GOLAY_POLY one of two values, the triple 000 in
GSC_ILL_LO, the table sizes) hold by how `Config.params` is put together (notes/assumptions/1.md). -/

namespace Sys2Proof

namespace Config

/-- `MSG_MAX`, the size of the message buffer in bytes (R6). -/
def msgMax : Nat := 256

/-- `CAP_MAX`, the size of the capcode list (R6). -/
def capMax : Nat := 8

/-- `WB_MAX`, the size of the word buffer in words (R6). -/
def wbMax : Nat := 128

/-- `BV_MAX`, the size of the bit-vector register in bits (R6). -/
def bvMax : Nat := 256

/-- `POP_MAX`, the size of the output symbol buffer (R6). -/
def popMax : Nat := 1024

end Config

/-- Three decimal digits `(a2, a1, a0)` of a GSC capcode (R271, R272). -/
abbrev Triple := Fin 10 × Fin 10 × Fin 10

/-- Which signature function a build uses for `FLEX_SIG` (R236, D21): the decided default, or one the build puts in
its place. -/
inductive FlexSignature where
  /-- The default of R236. -/
  | decided
  /-- Another function of the message, `Config.flexSigSubstitute`. -/
  | substituted
deriving DecidableEq, Repr

/-- The parameters of R6 that no decision fixes and the constant tables of R37, one field each. Bits of a bit string stand in
transmission order (R11). A partial map is the list of its (byte, code) pairs. -/
structure Params where
  /-- `FIFO_CAP`, the capacity of the symbol FIFO in symbols. -/
  fifoCap : Nat
  /-- `GOLAY_POLY`, the generator polynomial of the Golay(23,12) code. -/
  golayPoly : BitVec 12
  /-- `FLEX_SYNC1`, the bits sent before the FLEX frame info word. -/
  flexSync1 : List Bool
  /-- `FLEX_SYNC2`, the bits sent between the frame info word and block 0. -/
  flexSync2 : List Bool
  /-- `FLEX_SIG`: the default of R236, or another function in its place. -/
  flexSignature : FlexSignature
  /-- `GSC_PREAMBLE[0..9]`. -/
  gscPreamble : Vector (BitVec 12) 10
  /-- `GSC_WORD[0..49]`. -/
  gscWord : Vector (BitVec 12) 50
  /-- `GSC_ILL_LO`, the illegal triples for word1 below 50. -/
  gscIllLo : List Triple
  /-- `GSC_ILL_HI`, the illegal triples for word1 of 50 and above. -/
  gscIllHi : List Triple
  /-- `GSC_WORD2(a2, a1, a0)` as a table with entry `100·a2 + 10·a1 + a0`. -/
  gscWord2 : Vector (Fin 100) 1000
  /-- `GSC_NUMMAP`, the character map of numeric messages. -/
  gscNumMap : List (Byte × BitVec 7)
  /-- `GSC_ALPHAMAP`, the character map of alphanumeric messages. -/
  gscAlphaMap : List (Byte × BitVec 7)
  /-- `GSC_FILL`, the code of the unused character slots of the last block. -/
  gscFill : BitVec 7
  /-- `GSC_COMMA_LEAD`, the length of the leading comma in bits. -/
  gscCommaLead : Nat
  /-- `GSC_COMMA_TRAIL`, the length of the trailing comma in bits. -/
  gscCommaTrail : Nat
deriving DecidableEq, Repr

namespace Config

/-- OPEN (R6, D15): `FIFO_CAP` less one, so that the capacity is a natural number of at least 1. -/
opaque fifoCapLessOne : Nat

/-- OPEN (R6, D32): which of the two Golay generators the build uses. -/
opaque golayUsesAE3 : Bool

/-- OPEN (R6, D28): `FLEX_SYNC1`. -/
opaque flexSync1 : List Bool

/-- OPEN (R6, D28): `FLEX_SYNC2`. -/
opaque flexSync2 : List Bool

/-- The signature of a build that puts another function in the place of the default `FLEX_SIG` (R236, D21,
93_implementation_defined.md U4): any function of the message (notes/assumptions/4.md). -/
opaque flexSigSubstitute : List Byte → BitVec 7

/-- OPEN (R6, D35): `GSC_PREAMBLE`. -/
opaque gscPreamble : Vector (BitVec 12) 10

/-- OPEN (R6, D35): `GSC_WORD`. -/
opaque gscWord : Vector (BitVec 12) 50

/-- OPEN (R6, D35): the 15 entries of `GSC_ILL_LO` besides `(0, 0, 0)`. -/
opaque gscIllLoRest : Vector Triple 15

/-- OPEN (R6, D35): the 7 entries of `GSC_ILL_HI`. -/
opaque gscIllHi : Vector Triple 7

/-- OPEN (R6, D34): `GSC_WORD2`, any function of three digits to [0, 99]. -/
opaque gscWord2 : Vector (Fin 100) 1000

/-- OPEN (R6, D35): `GSC_NUMMAP`. -/
opaque gscNumMap : List (Byte × BitVec 7)

/-- OPEN (R6, D35): `GSC_ALPHAMAP`. -/
opaque gscAlphaMap : List (Byte × BitVec 7)

/-- OPEN (R6, D40): `GSC_FILL`. -/
opaque gscFill : BitVec 7

/-- OPEN (R6, D37): `GSC_COMMA_LEAD`. -/
opaque gscCommaLead : Nat

/-- OPEN (R6, D37): `GSC_COMMA_TRAIL`. -/
opaque gscCommaTrail : Nat

/-- The 32-bit register value of a symbol or bit count of 2^32 or more. DESIGN CHOICE, safe
(notes/assumptions/3.md): the spec bounds FIFO_CAP below only and gives every register 32 bits, so it states no
value there; the value is free. -/
opaque wideCount : Nat → Word

/-- The parameters of the build at hand (R6, R343): open values with the constraints R6 and R272 state, and for
`FLEX_SIG` the decided default. -/
def params : Params where
  fifoCap := fifoCapLessOne + 1
  golayPoly := if golayUsesAE3 then 0xAE3#12 else 0xC75#12
  flexSync1 := flexSync1
  flexSync2 := flexSync2
  flexSignature := .decided
  gscPreamble := gscPreamble
  gscWord := gscWord
  gscIllLo := (0, 0, 0) :: gscIllLoRest.toList
  gscIllHi := gscIllHi.toList
  gscWord2 := gscWord2
  gscNumMap := gscNumMap
  gscAlphaMap := gscAlphaMap
  gscFill := gscFill
  gscCommaLead := gscCommaLead
  gscCommaTrail := gscCommaTrail

end Config

end Sys2Proof
end

