-- ==== Sys2Proof/Syntax.lean ====
section
/-! DEFINITION. The syntax of what the host sends to MIXCORE: the 39 commands of 30_encoding.md R85, the registers
of 20_memory.md R61 and the host's accesses of R62 and R340. A command carries no operand (R83), so each constructor
of `Instr` stands alone. -/

namespace Sys2Proof

/-- The commands, one constructor per row of the opcode map (R85), in the map's order. -/
inductive Instr where
  /-- SETRATE, opcode 0x01 (R100). -/
  | setrate
  /-- SETPOL, opcode 0x02 (R101). -/
  | setpol
  /-- REV32, opcode 0x10 (R102). -/
  | rev32
  /-- EPAR, opcode 0x11 (R103). -/
  | epar
  /-- BCH31, opcode 0x12 (R104). -/
  | bch31
  /-- GOLAY, opcode 0x13 (R105). -/
  | golay
  /-- BCH15, opcode 0x14 (R106). -/
  | bch15
  /-- BVLIT, opcode 0x15 (R107). -/
  | bvlit
  /-- FXCSUM, opcode 0x20 (R140). -/
  | fxcsum
  /-- FXASUM, opcode 0x21 (R142). -/
  | fxasum
  /-- FXNSUM, opcode 0x22 (R144). -/
  | fxnsum
  /-- GSCSUM, opcode 0x23 (R146). -/
  | gscsum
  /-- PUSHBIT, opcode 0x30 (R162). -/
  | pushbit
  /-- PUSHRAW, opcode 0x31 (R163). -/
  | pushraw
  /-- PUSHBV, opcode 0x32 (R164). -/
  | pushbv
  /-- POP, opcode 0x33 (R165). -/
  | pop
  /-- DEPTH, opcode 0x34 (R166). -/
  | depth
  /-- EMPTY, opcode 0x35 (R167). -/
  | empty
  /-- PADDR, opcode 0x40 (R192). -/
  | paddr
  /-- PMSGN, opcode 0x41 (R196). -/
  | pmsgn
  /-- PMSGA, opcode 0x42 (R197). -/
  | pmsga
  /-- TXPOCN, opcode 0x43 (R200). -/
  | txpocn
  /-- TXPOCA, opcode 0x44 (R201). -/
  | txpoca
  /-- FSADDR, opcode 0x50 (R223). -/
  | fsaddr
  /-- FCW, opcode 0x51 (R221). -/
  | fcw
  /-- FFIW, opcode 0x52 (R224). -/
  | ffiw
  /-- FBIW, opcode 0x53 (R226). -/
  | fbiw
  /-- FVECN, opcode 0x54 (R228). -/
  | fvecn
  /-- FVECA, opcode 0x55 (R230). -/
  | fveca
  /-- FMSGN, opcode 0x56 (R232). -/
  | fmsgn
  /-- FMSGA, opcode 0x57 (R235). -/
  | fmsga
  /-- INTLV, opcode 0x58 (R238). -/
  | intlv
  /-- TXFLXN, opcode 0x59 (R242). -/
  | txflxn
  /-- TXFLXA, opcode 0x5A (R243). -/
  | txflxa
  /-- GPID, opcode 0x60 (R273). -/
  | gpid
  /-- GADDR, opcode 0x61 (R275). -/
  | gaddr
  /-- GBLK, opcode 0x62 (R277). -/
  | gblk
  /-- TXGSCN, opcode 0x63 (R283). -/
  | txgscn
  /-- TXGSCA, opcode 0x64 (R284). -/
  | txgsca
deriving DecidableEq, Repr

/-- Why a CMD value is no command (R81): both are ILLEGAL_COMMAND. -/
inductive DecodeError where
  /-- `c[31:8]` is not 0. -/
  | reservedBits
  /-- `c[7:0]` is none of the 39 opcodes. -/
  | unassignedOpcode
deriving DecidableEq, Repr

/-- The host-visible registers of R61. -/
inductive Reg where
  | cmd | status | ctrl | baud | symrate | repeatCount | fifoDepth | bvLen
  | op (k : Fin 8)
  | res (k : Fin 4)
  | msgLen | capCount | wbLen
  | cap (k : Fin 8)
  | msg (k : Fin 256)
  | wb (k : Fin 128)
  | out (k : Fin 1024)
deriving DecidableEq, Repr

/-- One access of the host: a whole-word read or write of the register space (R62), or the assertion of reset
(R340). -/
inductive HostAccess where
  | read (a : RegAddr)
  | write (a : RegAddr) (v : Word)
  | reset
deriving DecidableEq, Repr

end Sys2Proof
end

