-- ==== Sys2Proof/WellFormed.lean ====
section
/-! DEFINITION. The checks on what MIXCORE is given. A command carries no register number and no immediate
(30_encoding.md R83), so every term of `Instr` is well formed as it stands; what can be ill formed is a command
word (R80 to R82) and a set of parameters (00_scope.md R6, 45_gsc.md R272). -/

namespace Sys2Proof

/-- The 39 assigned opcode values, read off the OPC column of R85. -/
def assignedOpcodes : List Byte :=
  [0x01, 0x02,
   0x10, 0x11, 0x12, 0x13, 0x14, 0x15,
   0x20, 0x21, 0x22, 0x23,
   0x30, 0x31, 0x32, 0x33, 0x34, 0x35,
   0x40, 0x41, 0x42, 0x43, 0x44,
   0x50, 0x51, 0x52, 0x53, 0x54, 0x55, 0x56, 0x57, 0x58, 0x59, 0x5A,
   0x60, 0x61, 0x62, 0x63, 0x64]

/-- A command word is well formed when RSVD is 0 and OPC is assigned (R80, R81). -/
def wordWellFormed (c : Word) : Bool :=
  c.extractLsb' 8 24 == 0 && assignedOpcodes.contains (c.setWidth 8)

/-- `FIFO_CAP` is a natural number of at least 1 (R6). -/
def Params.fifoCapOk (p : Params) : Bool := decide (1 ≤ p.fifoCap)

/-- `GOLAY_POLY` is one of the two generators of the binary Golay code (R6). -/
def Params.golayPolyOk (p : Params) : Bool := p.golayPoly == 0xC75#12 || p.golayPoly == 0xAE3#12

/-- `GSC_ILL_LO` has 16 entries, `(0, 0, 0)` among them (R6, R272). -/
def Params.illLoOk (p : Params) : Bool := p.gscIllLo.length == 16 && p.gscIllLo.contains (0, 0, 0)

/-- `GSC_ILL_HI` has 7 entries (R6, R272). -/
def Params.illHiOk (p : Params) : Bool := p.gscIllHi.length == 7

/-- The parameters meet every constraint R6 and R272 state. -/
def Params.wf (p : Params) : Bool := p.fifoCapOk && p.golayPolyOk && p.illLoOk && p.illHiOk

end Sys2Proof
end

