-- ==== Sys2Proof/Decode.lean ====
section
/-! DEFINITION. The decoder and the encoder of the command word (30_encoding.md R80 to R85). The decoder is total on
32-bit words and rejects by name; the encoder is written from the same table, apart from the decoder. -/

namespace Sys2Proof

/-- The opcode map, one row (opcode, command) per row of R85. -/
def opcodeMap : List (Byte × Instr) :=
  [(0x01#8, .setrate),
   (0x02#8, .setpol),
   (0x10#8, .rev32),
   (0x11#8, .epar),
   (0x12#8, .bch31),
   (0x13#8, .golay),
   (0x14#8, .bch15),
   (0x15#8, .bvlit),
   (0x20#8, .fxcsum),
   (0x21#8, .fxasum),
   (0x22#8, .fxnsum),
   (0x23#8, .gscsum),
   (0x30#8, .pushbit),
   (0x31#8, .pushraw),
   (0x32#8, .pushbv),
   (0x33#8, .pop),
   (0x34#8, .depth),
   (0x35#8, .empty),
   (0x40#8, .paddr),
   (0x41#8, .pmsgn),
   (0x42#8, .pmsga),
   (0x43#8, .txpocn),
   (0x44#8, .txpoca),
   (0x50#8, .fsaddr),
   (0x51#8, .fcw),
   (0x52#8, .ffiw),
   (0x53#8, .fbiw),
   (0x54#8, .fvecn),
   (0x55#8, .fveca),
   (0x56#8, .fmsgn),
   (0x57#8, .fmsga),
   (0x58#8, .intlv),
   (0x59#8, .txflxn),
   (0x5A#8, .txflxa),
   (0x60#8, .gpid),
   (0x61#8, .gaddr),
   (0x62#8, .gblk),
   (0x63#8, .txgscn),
   (0x64#8, .txgsca)]

/-- The command an opcode selects, if any (R85). -/
def decodeOpcode (o : Byte) : Option Instr :=
  (opcodeMap.find? fun r => r.1 == o).map (·.2)

/-- Decode a CMD value (R80, R81): the reserved bits [31:8] must be 0 and bits [7:0] an assigned opcode. -/
def decode (c : Word) : Except DecodeError Instr :=
  if c.extractLsb' 8 24 = 0 then
    match decodeOpcode (c.setWidth 8) with
    | some i => .ok i
    | none => .error .unassignedOpcode
  else .error .reservedBits

/-- The opcode of a command (the OPC column of R85). -/
def opcode : Instr → Byte
  | .setrate => 0x01#8
  | .setpol => 0x02#8
  | .rev32 => 0x10#8
  | .epar => 0x11#8
  | .bch31 => 0x12#8
  | .golay => 0x13#8
  | .bch15 => 0x14#8
  | .bvlit => 0x15#8
  | .fxcsum => 0x20#8
  | .fxasum => 0x21#8
  | .fxnsum => 0x22#8
  | .gscsum => 0x23#8
  | .pushbit => 0x30#8
  | .pushraw => 0x31#8
  | .pushbv => 0x32#8
  | .pop => 0x33#8
  | .depth => 0x34#8
  | .empty => 0x35#8
  | .paddr => 0x40#8
  | .pmsgn => 0x41#8
  | .pmsga => 0x42#8
  | .txpocn => 0x43#8
  | .txpoca => 0x44#8
  | .fsaddr => 0x50#8
  | .fcw => 0x51#8
  | .ffiw => 0x52#8
  | .fbiw => 0x53#8
  | .fvecn => 0x54#8
  | .fveca => 0x55#8
  | .fmsgn => 0x56#8
  | .fmsga => 0x57#8
  | .intlv => 0x58#8
  | .txflxn => 0x59#8
  | .txflxa => 0x5A#8
  | .gpid => 0x60#8
  | .gaddr => 0x61#8
  | .gblk => 0x62#8
  | .txgscn => 0x63#8
  | .txgsca => 0x64#8

/-- The command word of a command: OPC in bits [7:0], RSVD 0 (R80). -/
def encode (i : Instr) : Word := 0#24 ++ opcode i

/-- What the decoder reads from an opcode-table row's bits: a row is one 32-bit CMD word. -/
def decodeTableWord (nbits w : Nat) : Option Instr :=
  match decode (BitVec.ofNat 32 (w % 2 ^ nbits)) with
  | .ok i => some i
  | .error _ => none

end Sys2Proof
end

