-- ==== Sys2Proof/Machine/State.lean ====
section
/-! DEFINITION. The state of MIXCORE as plain data (10_state.md), the reasons a command reports an error for
(60_exceptions.md R310, R311), the reasons a step stops, and the state after reset (R38, R341). Registers that are
only a view of other state (STATUS as a word, CTRL as a word, FIFO_DEPTH, STATUS.FIFO_EMPTY, BV_LEN) are stored once
and computed in Machine/Flags.lean and Machine/Bus.lean. -/

namespace Sys2Proof.Machine

/-- A buffer of `w`-bit entries as the list of its (index, entry) pairs in one canonical form: indices strictly
rising, no entry 0. An index that is not listed reads as 0, the reset value R38 gives every buffer entry.
`Memory 8` is a list of `Host.Cell`. -/
abbrev Memory (w : Nat) := List (Nat × BitVec w)

/-- The DETAIL codes of INPUT_VALIDATION (R311). -/
inductive InputDetail where
  | capcodeRange | length | character | illegalCodeword | capCount | frameCapacity | fieldRange
deriving DecidableEq, Repr

/-- The DETAIL codes of CONFIGURATION (R311). -/
inductive ConfigDetail where
  | notConfigured | rateNotMultiple | zeroRate
deriving DecidableEq, Repr

/-- The DETAIL codes of INVARIANT_VIOLATION (R311). -/
inductive InvariantDetail where
  | interleaveCount | systematic
deriving DecidableEq, Repr

/-- The errors a command reports in STATUS (R310, R311). MIXCORE goes on after each of them (R315 to R317, R319). -/
inductive CmdError where
  | inputValidation (d : InputDetail)
  | invalidFormat
  | configuration (d : ConfigDetail)
  | invariantViolation (d : InvariantDetail)
  | illegalCommand
  | queueOverflow
deriving DecidableEq, Repr

/-- The reasons for which the machine itself stops. There is none: every error is a STATUS code after which every
command is still accepted (R315 to R317), unmapped indices read 0 and ignore writes (R63), and no state can hang
(93_implementation_defined.md, treatments `fault` and `stuck`: not used). Safe: the model never stops where
MIXCORE goes on. -/
inductive Fault
deriving DecidableEq, Repr

/-- The reasons for which the model gives an instruction no meaning. -/
inductive Refusal where
  /-- Raised by an arm of `exec` for an instruction the model does not have yet. Safe: nothing is claimed of it. No
  arm raises it. -/
  | notModelled (mnemonic : String)
deriving DecidableEq, Repr

/-- The architectural state of MIXCORE, then the machine's parameters, then the host's side of the interface. -/
structure State where
  /-- `OP[0..7]` (R22). -/
  op : Vector Word 8
  /-- `RES[0..3]` (R23). -/
  res : Vector Word 4
  /-- `STATUS.RESULT` (R25). -/
  result : BitVec 4
  /-- `STATUS.DETAIL` (R25). -/
  detail : BitVec 4
  /-- `STATUS.LAST_OP` (R25). -/
  lastOp : Byte
  /-- `STATUS.CFG_OK` (R25). -/
  cfgOk : Bool
  /-- `STATUS.STICKY_ERR` (R25). -/
  stickyErr : Bool
  /-- `CTRL.POL_INV` (R27). -/
  polInv : Bool
  /-- `BAUD` (R28). -/
  baud : Word
  /-- `SYMRATE` (R28). -/
  symrate : Word
  /-- `REPEAT` (R28). -/
  repeatCount : Word
  /-- `MSG_LEN` (R30). -/
  msgLen : Word
  /-- `MSG[0..255]` (R30). -/
  msg : Memory 8
  /-- `CAP_COUNT` (R31). -/
  capCount : Word
  /-- `CAP[0..7]` (R31). -/
  cap : Vector Word 8
  /-- `WB_LEN` (R32). -/
  wbLen : Word
  /-- `WB[0..127]` (R32). -/
  wb : Memory 32
  /-- `OUT[0..1023]` (R33). -/
  out : Memory 32
  /-- `BV`, first bit first (R34). -/
  bv : List Bool
  /-- The FIFO, oldest bit first (R35). -/
  fifo : List Bool
  /-- The parameters of R6, which the spec has a model take as an argument. Not architectural state (R37): no
  step changes them (R343). DESIGN CHOICE, safe (notes/assumptions/1.md). -/
  params : Params
  /-- The model's own field: the host's accesses still to come, next one first (R20, R62).
  DESIGN CHOICE, safe (notes/assumptions/2.md). -/
  pending : List HostAccess
  /-- The model's own field: the value the host's last register read returned, if it has read (R62).
  DESIGN CHOICE, safe (notes/assumptions/2.md). -/
  readData : Option Word
deriving DecidableEq, Repr

/-- What one step or one command answers. -/
abbrev Answer := Host.Outcome State Fault Refusal

/-- The machine right after reset (R38, R341): every register and buffer entry 0, STATUS 0x00020000 (FIFO_EMPTY is
read from the FIFO), BV and the FIFO empty. The parameters are the build's, and the host has asked for nothing. -/
def State.reset : State where
  op := Vector.replicate 8 0
  res := Vector.replicate 4 0
  result := 0
  detail := 0
  lastOp := 0
  cfgOk := false
  stickyErr := false
  polInv := false
  baud := 0
  symrate := 0
  repeatCount := 0
  msgLen := 0
  msg := []
  capCount := 0
  cap := Vector.replicate 8 0
  wbLen := 0
  wb := []
  out := []
  bv := []
  fifo := []
  params := Config.params
  pending := []
  readData := none

end Sys2Proof.Machine
end

