-- ==== Sys2Proof/Machine/Flags.lean ====
section
/-! DEFINITION. The flags of MIXCORE are the STATUS fields (10_state.md R36): the RESULT and DETAIL codes of
60_exceptions.md R310 and R311, and STATUS and CTRL as words (R25, R27). -/

namespace Sys2Proof.Machine

/-- The DETAIL code of an INPUT_VALIDATION error (R311). -/
def inputDetailCode : InputDetail → BitVec 4
  | .capcodeRange => 1
  | .length => 2
  | .character => 3
  | .illegalCodeword => 4
  | .capCount => 5
  | .frameCapacity => 6
  | .fieldRange => 7

/-- The DETAIL code of a CONFIGURATION error (R311). -/
def configDetailCode : ConfigDetail → BitVec 4
  | .notConfigured => 1
  | .rateNotMultiple => 2
  | .zeroRate => 3

/-- The DETAIL code of an INVARIANT_VIOLATION error (R311). -/
def invariantDetailCode : InvariantDetail → BitVec 4
  | .interleaveCount => 1
  | .systematic => 2

/-- The RESULT code of an error (R310). -/
def errorResult : CmdError → BitVec 4
  | .inputValidation _ => 1
  | .invalidFormat => 2
  | .configuration _ => 3
  | .invariantViolation _ => 4
  | .illegalCommand => 5
  | .queueOverflow => 6

/-- The DETAIL code of an error (R311). -/
def errorDetail : CmdError → BitVec 4
  | .inputValidation d => inputDetailCode d
  | .configuration d => configDetailCode d
  | .invariantViolation d => invariantDetailCode d
  | .invalidFormat => 0
  | .illegalCommand => 0
  | .queueOverflow => 0

/-- `STATUS.FIFO_EMPTY`, live (R25). -/
def State.fifoEmpty (s : State) : Bool := s.fifo.isEmpty

/-- STATUS as a word (R25): reserved bits [31:20] and [18] read 0. -/
def State.statusWord (s : State) : Word :=
  0#12 ++ BitVec.ofBool s.stickyErr ++ 0#1 ++ BitVec.ofBool s.fifoEmpty ++ BitVec.ofBool s.cfgOk
    ++ s.lastOp ++ s.detail ++ s.result

/-- CTRL as a word (R27): POL_INV in bit 0, reserved bits [31:1] read 0. -/
def State.ctrlWord (s : State) : Word := 0#31 ++ BitVec.ofBool s.polInv

end Sys2Proof.Machine
end

