-- ==== Sys2Proof/Machine/Memory.lean ====
section
/-! DEFINITION. The one set of operations over the buffers MSG, WB and OUT (10_state.md R30, R32, R33): read, write,
write of a run of entries, and the canonical form. -/

namespace Sys2Proof.Machine

/-- What an index nothing has written reads as: the reset value 0 (R38). -/
def Memory.blank (w : Nat) : BitVec w := 0

/-- The entry at index `a`. -/
def Memory.read {w : Nat} : Memory w → Nat → BitVec w
  | [], _ => Memory.blank w
  | (k, v) :: m, a => if k = a then v else Memory.read m a

/-- The pairs that list the entries `vs` from index `base` on; an entry that reads as blank is not listed. -/
def Memory.listed {w : Nat} : Nat → List (BitVec w) → Memory w
  | _, [] => []
  | base, v :: vs =>
    if v = Memory.blank w then Memory.listed (base + 1) vs else (base, v) :: Memory.listed (base + 1) vs

/-- Write the entries `vs` at the indices from `base` on. -/
def Memory.writeList {w : Nat} (m : Memory w) (base : Nat) (vs : List (BitVec w)) : Memory w :=
  m.filter (fun c => decide (c.1 < base)) ++ Memory.listed base vs
    ++ m.filter (fun c => decide (base + vs.length ≤ c.1))

/-- Write one entry. -/
def Memory.write {w : Nat} (m : Memory w) (a : Nat) (v : BitVec w) : Memory w := Memory.writeList m a [v]

/-- The entries at the indices `0 .. n - 1`. -/
def Memory.readList {w : Nat} (m : Memory w) (n : Nat) : List (BitVec w) := (List.range n).map (Memory.read m)

/-- The canonical form from index `lo` on: indices from `lo` up and below `size`, strictly rising, no entry blank. -/
def Memory.wfFrom {w : Nat} (size : Nat) : Nat → Memory w → Bool
  | _, [] => true
  | lo, (k, v) :: m => decide (lo ≤ k) && decide (k < size) && !(v == Memory.blank w) && Memory.wfFrom size (k + 1) m

/-- The canonical form of a buffer of `size` entries. -/
def Memory.wf {w : Nat} (size : Nat) (m : Memory w) : Bool := Memory.wfFrom size 0 m

end Sys2Proof.Machine
end

