-- ==== Sys2Proof/Machine/Ops.lean ====
section
/-! DEFINITION. The named operations over registers, buffers and the FIFO that the commands share, and how a command
ends (60_exceptions.md R312 to R316): MIXCORE has no trap and no return from one (R315, R316), so reporting an error
in STATUS is its one exception entry, and the next CMD write is all the return there is. -/

namespace Sys2Proof.Machine

/-- A count as a register value. Below 2^32 it is the count; at or above it the spec states no value, and the value
is free (notes/assumptions/3.md). -/
def countWord (n : Nat) : Word := if n < 2 ^ 32 then BitVec.ofNat 32 n else Config.wideCount n

/-- Write `RES[k]` (R23). -/
def State.setRes (s : State) (k : Fin 4) (v : Word) : State := { s with res := s.res.set k v }

/-- Write `ws` to `WB[0..n-1]` and their number to WB_LEN (R32, R348); later entries keep their values. -/
def State.setWords (s : State) (ws : List Word) : State :=
  { s with wb := Memory.writeList s.wb 0 ws, wbLen := BitVec.ofNat 32 ws.length }

/-- Write `WB[0]` (R32). -/
def State.setWord0 (s : State) (v : Word) : State := { s with wb := Memory.write s.wb 0 v }

/-- The end of a command that completes (R312): RESULT 0, DETAIL 0, LAST_OP. -/
def State.endOk (s : State) (opc : Byte) : State := { s with result := 0, detail := 0, lastOp := opc }

/-- The end of a command that raises `e` (R312, R315): RESULT, DETAIL, LAST_OP, and STICKY_ERR set. -/
def State.endError (s : State) (e : CmdError) (opc : Byte) : State :=
  { s with result := errorResult e, detail := errorDetail e, lastOp := opc, stickyErr := true }

/-- The end of a command whose effect is `r`: a raised error leaves every other part of `s` as it was (R314). -/
def State.endCommand (s : State) (opc : Byte) : Except CmdError State → State
  | .ok t => t.endOk opc
  | .error e => s.endError e opc

/-- One check of a command: raise `e` unless `ok`. -/
def require (ok : Bool) (e : CmdError) : Except CmdError Unit := if ok then .ok () else .error e

/-- The check that opens every command of R325. -/
def State.requireConfigured (s : State) : Except CmdError Unit := require s.cfgOk (.configuration .notConfigured)

/-- `FifoAppend` with each bit of `x` repeated `r` times (42_queue.md R160): the capacity check comes before any
append; the answer is the new state and the number of symbols appended. -/
def State.appendSymbols (s : State) (x : List Bool) (r : Nat) : Except CmdError (State × Nat) :=
  if s.fifo.length + x.length * r > s.params.fifoCap then .error .queueOverflow
  else .ok ({ s with fifo := s.fifo ++ repeatBits r x }, x.length * r)

/-- `FifoAppend(s)` (R160): each bit REPEAT times. -/
def State.fifoAppend (s : State) (x : List Bool) : Except CmdError (State × Nat) :=
  s.appendSymbols x s.repeatCount.toNat

/-- `FifoAppendRaw(s)` (R161): no repetition. -/
def State.fifoAppendRaw (s : State) (x : List Bool) : Except CmdError (State × Nat) := s.appendSymbols x 1

/-- `RES[0] <- FifoAppend(x)`, the end of PUSHBIT, PUSHBV and INTLV. -/
def State.pushBits (s : State) (x : List Bool) : Except CmdError State := do
  let r ← s.fifoAppend x
  .ok (r.1.setRes 0 (countWord r.2))

/-- `RES[1] <- FifoAppend(x); RES[0] <- len(x)`, the end of every frame sequencer (R200, R242, R283). -/
def State.queueFrame (s : State) (x : List Bool) : Except CmdError State := do
  let r ← s.fifoAppend x
  .ok ((r.1.setRes 1 (countWord r.2)).setRes 0 (countWord x.length))

/-- BAUD, SYMRATE, REPEAT and CFG_OK cleared, as a failing SETRATE does (R100, R314). -/
def State.clearRates (s : State) : State :=
  { s with baud := 0, symrate := 0, repeatCount := 0, cfgOk := false }

end Sys2Proof.Machine
end

