-- ==== Sys2Proof/Machine/Bus.lean ====
section
/-! DEFINITION. The host's side of MIXCORE (20_memory.md R61 to R64, 10_state.md R39): the register map, register
reads and writes, reset, and the fetch of the host's next access. Running the command a CMD write starts is in
Step.lean. -/

namespace Sys2Proof.Machine

/-- The index of CMD (R61). -/
def cmdAddr : RegAddr := 0x0000#16

/-- The register an index names, if it is mapped (R61). -/
def regAt (a : RegAddr) : Option Reg :=
  let n := a.toNat
  if n = 0x0000 then some .cmd
  else if n = 0x0001 then some .status
  else if n = 0x0002 then some .ctrl
  else if n = 0x0003 then some .baud
  else if n = 0x0004 then some .symrate
  else if n = 0x0005 then some .repeatCount
  else if n = 0x0006 then some .fifoDepth
  else if n = 0x0007 then some .bvLen
  else if h : 0x0008 ≤ n ∧ n ≤ 0x000F then some (.op ⟨n - 0x0008, by omega⟩)
  else if h : 0x0010 ≤ n ∧ n ≤ 0x0013 then some (.res ⟨n - 0x0010, by omega⟩)
  else if n = 0x0014 then some .msgLen
  else if n = 0x0015 then some .capCount
  else if n = 0x0016 then some .wbLen
  else if h : 0x0020 ≤ n ∧ n ≤ 0x0027 then some (.cap ⟨n - 0x0020, by omega⟩)
  else if h : 0x0100 ≤ n ∧ n ≤ 0x01FF then some (.msg ⟨n - 0x0100, by omega⟩)
  else if h : 0x0200 ≤ n ∧ n ≤ 0x027F then some (.wb ⟨n - 0x0200, by omega⟩)
  else if h : 0x0400 ≤ n ∧ n ≤ 0x07FF then some (.out ⟨n - 0x0400, by omega⟩)
  else none

/-- The index of a register (R61), written apart from `regAt`. -/
def regIndex : Reg → RegAddr
  | .cmd => 0x0000
  | .status => 0x0001
  | .ctrl => 0x0002
  | .baud => 0x0003
  | .symrate => 0x0004
  | .repeatCount => 0x0005
  | .fifoDepth => 0x0006
  | .bvLen => 0x0007
  | .op k => BitVec.ofNat 16 (0x0008 + k.val)
  | .res k => BitVec.ofNat 16 (0x0010 + k.val)
  | .msgLen => 0x0014
  | .capCount => 0x0015
  | .wbLen => 0x0016
  | .cap k => BitVec.ofNat 16 (0x0020 + k.val)
  | .msg k => BitVec.ofNat 16 (0x0100 + k.val)
  | .wb k => BitVec.ofNat 16 (0x0200 + k.val)
  | .out k => BitVec.ofNat 16 (0x0400 + k.val)

/-- The value a read of a register returns (R24 to R35); CMD reads 0. -/
def State.readReg (s : State) : Reg → Word
  | .cmd => 0
  | .status => s.statusWord
  | .ctrl => s.ctrlWord
  | .baud => s.baud
  | .symrate => s.symrate
  | .repeatCount => s.repeatCount
  | .fifoDepth => countWord s.fifo.length
  | .bvLen => BitVec.ofNat 32 s.bv.length
  | .op k => s.op[k.val]
  | .res k => s.res[k.val]
  | .msgLen => s.msgLen
  | .capCount => s.capCount
  | .wbLen => s.wbLen
  | .cap k => s.cap[k.val]
  | .msg k => (Memory.read s.msg k.val).setWidth 32
  | .wb k => Memory.read s.wb k.val
  | .out k => Memory.read s.out k.val

/-- The state after a host write to a register other than CMD (R39): a read-only register ignores it, MSG[j] keeps
bits [7:0]. A write to CMD starts a command instead and is no business of this function. -/
def State.writeReg (s : State) (r : Reg) (v : Word) : State :=
  match r with
  | .op k => { s with op := s.op.set k.val v }
  | .msgLen => { s with msgLen := v }
  | .capCount => { s with capCount := v }
  | .wbLen => { s with wbLen := v }
  | .cap k => { s with cap := s.cap.set k.val v }
  | .msg k => { s with msg := Memory.write s.msg k.val (v.setWidth 8) }
  | .wb k => { s with wb := Memory.write s.wb k.val v }
  | .cmd => s
  | .status => s
  | .ctrl => s
  | .baud => s
  | .symrate => s
  | .repeatCount => s
  | .fifoDepth => s
  | .bvLen => s
  | .res _ => s
  | .out _ => s

/-- `MemRead(a, 1)` (R62): an unmapped index reads 0 (R63). -/
def State.memRead (s : State) (a : RegAddr) : Word :=
  match regAt a with
  | some r => s.readReg r
  | none => 0

/-- `MemWrite(a, 1, v)` to an index other than CMD's (R62): a write to an unmapped index has no effect (R63). -/
def State.memWrite (s : State) (a : RegAddr) (v : Word) : State :=
  match regAt a with
  | some r => s.writeReg r v
  | none => s

/-- Reset (R340, R341): every piece of state as after power-on; the parameters are not changed, and the host goes on
with its accesses. -/
def State.hostReset (s : State) : State :=
  { State.reset with params := s.params, pending := s.pending, readData := s.readData }

/-- The report of a CMD value that is no command (R81): ILLEGAL_COMMAND with LAST_OP `c[7:0]`. -/
def State.illegalCommand (s : State) (c : Word) : State := s.endError .illegalCommand (c.setWidth 8)

/-- The host's access `a` put before those still to come. -/
def State.queueAccess (s : State) (a : HostAccess) : State := { s with pending := a :: s.pending }

/-- The CMD value whose low bits an opcode-table row's `nbits` bits are, the rest 0 (R80). -/
def tableWord (nbits w : Nat) : Word := BitVec.ofNat 32 (w % 2 ^ nbits)

end Sys2Proof.Machine
end

