-- ==== Sys2Proof/Machine/Codes.lean ====
section
/-! DEFINITION. The channel codes of 40_primitives.md (R104 to R106) over the polynomial remainder of 00_scope.md
R10, and the checksums of 41_checksums.md (R140 to R145). -/

namespace Sys2Proof.Machine

/-- The division steps of `polymod` (R10) for the bits `k + m - 1` down to `k` of `v`. -/
def polymodSteps {n : Nat} (g : BitVec n) (k : Nat) : Nat → BitVec n → BitVec n
  | 0, v => v
  | m + 1, v => polymodSteps g k m (if v.getLsbD (k + m) then v ^^^ (g <<< m) else v)

/-- `polymod(v, g, k)` (R10): the remainder of `v` by the degree-`k` polynomial `g`. -/
def polymod {n : Nat} (v g : BitVec n) (k : Nat) : BitVec n := polymodSteps g k (n - k) v

/-- `G31`, the BCH(31,21) generator (R104). -/
def g31 : Word := 0x769#32

/-- `bch31(dw)` (R104): the top 21 bits of `dw`, ten check bits, and an even-parity bit as the new bit 0. -/
def bch31 (dw : Word) : Word :=
  let m := dw >>> 11
  let c := polymod (m <<< 10) g31 10
  let w := (m <<< 11) ||| (c <<< 1)
  w ||| (BitVec.ofBool (epar w)).setWidth 32

/-- `golay(d)` (R105) with the generator `poly`: data in bits [22:11], parity in bits [10:0]. -/
def golay (poly d : BitVec 12) : BitVec 23 :=
  let v := d.setWidth 23 <<< 11
  v ||| polymod v (poly.setWidth 23) 11

/-- The complement of a 23-bit codeword (45_gsc.md R270). -/
def golayComplement (g : BitVec 23) : BitVec 23 := g ^^^ 0x7FFFFF#23

/-- `G15`, the BCH(15,7) generator "111010001" read most significant coefficient first (R106). -/
def g15 : BitVec 15 := 0x1D1#15

/-- `bch15(d)` (R106): data in bits [14:8], parity in bits [7:0]. -/
def bch15 (d : BitVec 7) : BitVec 15 :=
  let v := d.setWidth 15 <<< 8
  v ||| polymod v g15 8

/-- `fxcsum(x)` (R140): the 21-bit dataword with its complemented nibble sum in bits [3:0]. -/
def fxcsum (x : Word) : Word :=
  let d := x &&& 0x1FFFF0#32
  let sum := (d.extractLsb' 4 4).toNat + (d.extractLsb' 8 4).toNat + (d.extractLsb' 12 4).toNat
    + (d.extractLsb' 16 4).toNat + (d.extractLsb' 20 1).toNat
  d ||| (~~~(BitVec.ofNat 4 sum)).setWidth 32

/-- The integer sum of R141 and R143: the first word under its own mask, every later word's 21 dataword bits. -/
def messageSum (firstMask : Word) : List Word → Nat
  | [] => 0
  | w :: ws => (w &&& firstMask).toNat + sumNat (ws.map fun x => x &&& 0x1FFFFF#32)

/-- `alpha_k(w)` (R141), the FLEX alphanumeric message checksum. -/
def alphaK (ws : List Word) : BitVec 10 := ~~~(BitVec.ofNat 10 (messageSum 0x1FFC00#32 ws))

/-- `num_k(w)` (R143), the FLEX numeric message checksum. -/
def numK (ws : List Word) : BitVec 6 := ~~~(BitVec.ofNat 6 (messageSum 0x1FFFFC#32 ws))

/-- `gsc_sum(u)` (R145), the GSC block checksum: the sum modulo 128. -/
def gscSum (u : List (BitVec 7)) : BitVec 7 := BitVec.ofNat 7 (sumNat u)

end Sys2Proof.Machine
end

