-- ==== Sys2Proof/Machine/Operands.lean ====
section
/-! DEFINITION. The operand forms (30_encoding.md R83, R84): the message, the word list, the operand registers, and
the maps from message bytes to character codes (43_pocsag.md R193 and its uses). -/

namespace Sys2Proof.Machine

/-- The message bytes `MSG[0..MSG_LEN-1]`, after the check INPUT_VALIDATION(LENGTH) on MSG_LEN (R107, R196, R200,
R232, R242, R283). -/
def State.message (s : State) : Except CmdError (List Byte) := do
  require (decide (0 < s.msgLen.toNat ∧ s.msgLen.toNat ≤ Config.msgMax)) (.inputValidation .length)
  .ok (Memory.readList s.msg s.msgLen.toNat)

/-- The words `WB[0..WB_LEN-1]`, after the check INPUT_VALIDATION(LENGTH) on WB_LEN (R142, R144). -/
def State.words (s : State) : Except CmdError (List Word) := do
  require (decide (0 < s.wbLen.toNat ∧ s.wbLen.toNat ≤ Config.wbMax)) (.inputValidation .length)
  .ok (Memory.readList s.wb s.wbLen.toNat)

/-- The seven 7-bit units `WB[0..6][6:0]`, whatever WB_LEN is (R146, R277). -/
def State.units (s : State) : List (BitVec 7) := (Memory.readList s.wb 7).map fun w => w.setWidth 7

/-- The check `CAP_COUNT = 1` of POCSAG and GSC, then `CAP[0]` (R200, R283). -/
def State.soleCapcode (s : State) : Except CmdError Word := do
  require (s.capCount == 1#32) (.inputValidation .capCount)
  .ok s.cap[0]

/-- The capcodes `CAP[0..N-1]` of a FLEX frame, after the check that `N` is 1 to CAP_MAX (R242). -/
def State.capcodes (s : State) : Except CmdError (List Word) := do
  require (decide (1 ≤ s.capCount.toNat ∧ s.capCount.toNat ≤ Config.capMax)) (.inputValidation .capCount)
  .ok (s.cap.toList.take s.capCount.toNat)

/-- The codes of the message bytes under the partial map `f`; the first unmapped byte raises
INPUT_VALIDATION(CHARACTER) (R193, R195, R233, R278). -/
def encodeChars {α : Type} (f : Byte → Option α) : List Byte → Except CmdError (List α)
  | [] => .ok []
  | c :: cs =>
    match f c with
    | none => .error (.inputValidation .character)
    | some k =>
      match encodeChars f cs with
      | .error e => .error e
      | .ok ks => .ok (k :: ks)

/-- `NUMMAP` (R193), shared by POCSAG and FLEX. -/
def numMap (c : Byte) : Option (BitVec 4) :=
  if 0x30#8 ≤ c ∧ c ≤ 0x39#8 then some (c.setWidth 4)
  else if c = 0x55#8 then some 0xB#4
  else if c = 0x20#8 then some 0xC#4
  else if c = 0x2D#8 then some 0xD#4
  else if c = 0x5D#8 then some 0xE#4
  else if c = 0x5B#8 then some 0xF#4
  else none

/-- The space code that fills unused digit slots (R194, R231). -/
def spaceCode : BitVec 4 := 0xC#4

/-- The 7-bit characters of POCSAG and FLEX alphanumeric messages (R195, R233): every byte of at most 0x7F. -/
def asciiMap (c : Byte) : Option (BitVec 7) := if c ≤ 0x7F#8 then some (c.setWidth 7) else none

/-- The code a GSC character table holds for a byte, if it holds one (45_gsc.md R278). -/
def tableMap (table : List (Byte × BitVec 7)) (c : Byte) : Option (BitVec 7) :=
  (table.find? fun e => e.1 == c).map (·.2)

end Sys2Proof.Machine
end

