-- ==== Sys2Proof/Machine/Checksums.lean ====
section
/-! DEFINITION. The commands of 41_checksums.md: FXCSUM, FXASUM, FXNSUM, GSCSUM (R140, R142, R144, R146). -/

namespace Sys2Proof.Machine

/-- FXCSUM (R140). -/
def execFxcsum (s : State) : Answer :=
  .next ((s.setRes 0 (fxcsum s.op[0])).endOk (opcode .fxcsum))

/-- The effect of FXASUM (R142): bits [31:10] of WB[0] are kept. -/
def fxasumEffect (s : State) : Except CmdError State := do
  let ws ← s.words
  let k := (alphaK ws).setWidth 32
  .ok ((s.setWord0 ((Memory.read s.wb 0 &&& 0xFFFFFC00#32) ||| k)).setRes 0 k)

/-- FXASUM (R142). -/
def execFxasum (s : State) : Answer := .next (s.endCommand (opcode .fxasum) (fxasumEffect s))

/-- The effect of FXNSUM (R144): the two most significant checksum bits go to WB[0][1:0], all six to RES[0]. -/
def fxnsumEffect (s : State) : Except CmdError State := do
  let ws ← s.words
  let k := (numK ws).setWidth 32
  .ok ((s.setWord0 ((Memory.read s.wb 0 &&& 0xFFFFFFFC#32) ||| (k >>> 4))).setRes 0 k)

/-- FXNSUM (R144). -/
def execFxnsum (s : State) : Answer := .next (s.endCommand (opcode .fxnsum) (fxnsumEffect s))

/-- GSCSUM (R146). -/
def execGscsum (s : State) : Answer :=
  .next ((s.setRes 0 ((gscSum s.units).setWidth 32)).endOk (opcode .gscsum))

end Sys2Proof.Machine
end

