-- ==== Sys2Proof/Machine/Flex.lean ====
section
/-! DEFINITION. The FLEX encoder of 44_flex.md: codewords, address, control and message words, the interleaver and
the frame (R220 to R241), and the commands FSADDR, FCW, FFIW, FBIW, FVECN, FVECA, FMSGN, FMSGA, INTLV, TXFLXN,
TXFLXA. -/

namespace Sys2Proof.Machine

/-- `fcw(x)` (R220): bit reversal of the 21-bit dataword, then BCH(31,21). -/
def fcw (x : Word) : Word := bch31 (rev32 (x &&& 0x1FFFFF#32))

/-- `flex_saddr(a)` (R222): valid for addresses in [32769, 1966080]. -/
def flexSaddr (a : Word) : Except CmdError Word := do
  require (decide (32769 ≤ a.toNat ∧ a.toNat ≤ 1966080)) (.inputValidation .capcodeRange)
  .ok (fcw a)

/-- `biw_dw(p, V)` (R225). -/
def biwDw (p : Word) (v : Nat) : Except CmdError Word := do
  require (decide (v ≤ 63)) (.inputValidation .fieldRange)
  .ok (fxcsum ((p &&& 0x1F03F0#32) ||| (BitVec.ofNat 32 v <<< 10)))

/-- `vecn_dw(b, W, K)` (R227): vector type 3 in [6:4], start, `W - 1`, and `K[3:0]`. -/
def vecnDw (b w k : Nat) : Except CmdError Word := do
  require (decide (b ≤ 127 ∧ 1 ≤ w ∧ w ≤ 8 ∧ k ≤ 63)) (.inputValidation .fieldRange)
  .ok (fxcsum ((3#32 <<< 4) ||| (BitVec.ofNat 32 b <<< 7) ||| (BitVec.ofNat 32 (w - 1) <<< 14)
    ||| ((BitVec.ofNat 32 k &&& 0xF#32) <<< 17)))

/-- `veca_dw(b, W)` (R229): vector type 5 in [6:4], start, and word count. -/
def vecaDw (b w : Nat) : Except CmdError Word := do
  require (decide (b ≤ 127 ∧ 1 ≤ w ∧ w ≤ 127)) (.inputValidation .fieldRange)
  .ok (fxcsum ((5#32 <<< 4) ||| (BitVec.ofNat 32 b <<< 7) ||| (BitVec.ofNat 32 w <<< 14)))

/-- `flex_num_words(m)` (R231): the message datawords and the 6-bit checksum. -/
def flexNumWords (m : List Byte) : Except CmdError (List Word × BitVec 6) := do
  require (decide (m.length ≤ 41)) (.inputValidation .length)
  let ks ← encodeChars numMap m
  let n := ceilDiv (2 + 4 * m.length) 21
  let s := fillTo (21 * n) (fun i => spaceCode.getLsbD ((i - 2) % 4)) ([false, false] ++ ks.flatMap bitsLsb)
  let w := (List.range n).map fun j => ofBitsLsb 32 (chunk 21 j s)
  let k := numK w
  .ok (w.modifyHead (· ||| (k.setWidth 32 >>> 4)), k)

/-- `FLEX_SIG` (R236): by default the complemented 7-bit sum of the message's characters. The spec lets a model put
another function in its place, and `Params.flexSignature` says which is used (notes/assumptions/4.md). -/
def flexSig (p : Params) (m : List Byte) : BitVec 7 :=
  match p.flexSignature with
  | .decided => ~~~(BitVec.ofNat 7 (sumNat m))
  | .substituted => Config.flexSigSubstitute m

/-- The number of words of an alphanumeric message of `l` characters (R233): the least `W ≥ 2` with
`3W - 4 ≥ l`. -/
def flexAlphaCount (l : Nat) : Nat := max 2 (ceilDiv (l + 4) 3)

/-- Three 7-bit fields, the first in the low bits (R233). -/
def pack3 (a b c : BitVec 7) : Word := a.setWidth 32 ||| (b.setWidth 32 <<< 7) ||| (c.setWidth 32 <<< 14)

/-- The ETX character of unused slots (R233). -/
def flexEtx : BitVec 7 := 0x03#7

/-- Word `j ≥ 1` of an alphanumeric message with signature `sig` and character slots `q` (R233). -/
def flexAlphaWord (sig : BitVec 7) (q : List (BitVec 7)) (j : Nat) : Word :=
  if j = 1 then pack3 sig (q.getD 0 flexEtx) (q.getD 1 flexEtx)
  else pack3 (q.getD (3 * j - 4) flexEtx) (q.getD (3 * j - 3) flexEtx) (q.getD (3 * j - 2) flexEtx)

/-- `flex_alpha_words(m, h)` (R233) of the build `p`: the message datawords and the 10-bit checksum. -/
def flexAlphaWords (p : Params) (m : List Byte) (h : Word) : Except CmdError (List Word × BitVec 10) := do
  require (decide (m.length ≤ 252)) (.inputValidation .length)
  let ks ← encodeChars asciiMap m
  let n := flexAlphaCount m.length
  let q := ks ++ List.replicate (3 * n - 4 - m.length) flexEtx
  let w := (h &&& 0x1FFC00#32) :: (List.range (n - 1)).map fun j => flexAlphaWord (flexSig p m) q (j + 1)
  let k := alphaK w
  .ok (w.modifyHead (· ||| k.setWidth 32), k)

/-- `interleave(c)` (R237): bit 31 of each word in turn, then bit 30, down to bit 0. -/
def interleave (c : List Word) : List Bool :=
  (List.range 32).flatMap fun i => c.map fun w => w.getLsbD (31 - i)

/-- `flex_idle(n)` (R240): the codewords of 0x000000 and 0x1FFFFF in turn. -/
def flexIdle (n : Nat) : List Word :=
  (List.range n).map fun i => if i % 2 = 0 then fcw 0x000000#32 else fcw 0x1FFFFF#32

/-- `flex_words(a, w, K, p, alpha)` (R239) over the capcodes `a` (notes/assumptions/5.md, DEDUCED); `vec b W` is the
vector dataword for message start `b` and word count `W`. -/
def flexWords (a w : List Word) (p : Word) (vec : Nat → Nat → Except CmdError Word) : Except CmdError (List Word) := do
  let n := a.length
  let m := w.length
  require (decide (1 + 2 * n + m ≤ 88)) (.inputValidation .frameCapacity)
  let biw ← biwDw p (n + 1)
  let v ← vec (2 * n + 1) m
  let t := [fcw biw] ++ a.map fcw ++ List.replicate n (fcw v) ++ w.map fcw
  .ok (t ++ flexIdle (88 - t.length))

/-- `flex_bits(t, f)` (R241): the syncs around the frame info word, then the 11 interleaved blocks. -/
def flexBits (p : Params) (t : List Word) (f : Word) : List Bool :=
  p.flexSync1 ++ bitsMsb (fcw (fxcsum f)) ++ p.flexSync2
    ++ (List.range 11).flatMap fun k => interleave (chunk 8 k t)

/-- FCW (R221). -/
def execFcw (s : State) : Answer := .next ((s.setRes 0 (fcw s.op[0])).endOk (opcode .fcw))

/-- The effect of FSADDR (R223). -/
def fsaddrEffect (s : State) : Except CmdError State := do
  let w ← flexSaddr s.op[0]
  .ok (s.setRes 0 w)

/-- FSADDR (R223). -/
def execFsaddr (s : State) : Answer := .next (s.endCommand (opcode .fsaddr) (fsaddrEffect s))

/-- A control dataword in RES[1] and its codeword in RES[0] (R224, R226, R228, R230). -/
def State.setControlWord (s : State) (d : Word) : State := (s.setRes 1 d).setRes 0 (fcw d)

/-- FFIW (R224). -/
def execFfiw (s : State) : Answer := .next ((s.setControlWord (fxcsum s.op[0])).endOk (opcode .ffiw))

/-- The effect of FBIW (R226). -/
def fbiwEffect (s : State) : Except CmdError State := do
  let d ← biwDw s.op[0] s.op[1].toNat
  .ok (s.setControlWord d)

/-- FBIW (R226). -/
def execFbiw (s : State) : Answer := .next (s.endCommand (opcode .fbiw) (fbiwEffect s))

/-- The effect of FVECN (R228). -/
def fvecnEffect (s : State) : Except CmdError State := do
  let d ← vecnDw s.op[0].toNat s.op[1].toNat s.op[2].toNat
  .ok (s.setControlWord d)

/-- FVECN (R228). -/
def execFvecn (s : State) : Answer := .next (s.endCommand (opcode .fvecn) (fvecnEffect s))

/-- The effect of FVECA (R230). -/
def fvecaEffect (s : State) : Except CmdError State := do
  let d ← vecaDw s.op[0].toNat s.op[1].toNat
  .ok (s.setControlWord d)

/-- FVECA (R230). -/
def execFveca (s : State) : Answer := .next (s.endCommand (opcode .fveca) (fvecaEffect s))

/-- The effect of FMSGN (R232). -/
def fmsgnEffect (s : State) : Except CmdError State := do
  let m ← s.message
  let r ← flexNumWords m
  .ok (((s.setWords r.1).setRes 0 (BitVec.ofNat 32 r.1.length)).setRes 1 (r.2.setWidth 32))

/-- FMSGN (R232). -/
def execFmsgn (s : State) : Answer := .next (s.endCommand (opcode .fmsgn) (fmsgnEffect s))

/-- The effect of FMSGA (R235): at most 85 words. -/
def fmsgaEffect (s : State) : Except CmdError State := do
  let m ← s.message
  let r ← flexAlphaWords s.params m s.op[0]
  require (decide (r.1.length ≤ 85)) (.inputValidation .frameCapacity)
  .ok (((s.setWords r.1).setRes 0 (BitVec.ofNat 32 r.1.length)).setRes 1 (r.2.setWidth 32))

/-- FMSGA (R235). -/
def execFmsga (s : State) : Answer := .next (s.endCommand (opcode .fmsga) (fmsgaEffect s))

/-- The effect of INTLV (R238). -/
def intlvEffect (s : State) : Except CmdError State := do
  s.requireConfigured
  require (s.wbLen == 8#32) (.invariantViolation .interleaveCount)
  s.pushBits (interleave (Memory.readList s.wb 8))

/-- INTLV (R238). -/
def execIntlv (s : State) : Answer := .next (s.endCommand (opcode .intlv) (intlvEffect s))

/-- The checks of a FLEX frame before its message (R242, R244): every capcode a short address, the first one that
is not aborting the frame. The answer is the capcodes. -/
def checkShortAddrs : List Word → Except CmdError Unit
  | [] => .ok ()
  | a :: as => do
    let _ ← flexSaddr a
    checkShortAddrs as

/-- The effect of TXFLXN (R242), its checks in the order of R244. -/
def txflxnEffect (s : State) : Except CmdError State := do
  s.requireConfigured
  let caps ← s.capcodes
  checkShortAddrs caps
  let m ← s.message
  let r ← flexNumWords m
  let t ← flexWords caps r.1 s.op[1] fun b w => vecnDw b w r.2.toNat
  s.queueFrame (flexBits s.params t s.op[0])

/-- TXFLXN (R242). -/
def execTxflxn (s : State) : Answer := .next (s.endCommand (opcode .txflxn) (txflxnEffect s))

/-- The effect of TXFLXA (R243), its checks in the order of R244. -/
def txflxaEffect (s : State) : Except CmdError State := do
  s.requireConfigured
  let caps ← s.capcodes
  checkShortAddrs caps
  let m ← s.message
  let r ← flexAlphaWords s.params m s.op[2]
  let t ← flexWords caps r.1 s.op[1] vecaDw
  s.queueFrame (flexBits s.params t s.op[0])

/-- TXFLXA (R243). -/
def execTxflxa (s : State) : Answer := .next (s.endCommand (opcode .txflxa) (txflxaEffect s))

end Sys2Proof.Machine
end

