-- ==== Sys2Proof/Machine/Gsc.lean ====
section
/-! DEFINITION. The GSC encoder of 45_gsc.md: pager ID, address, data blocks and the frame (R270 to R282), and the
commands GPID, GADDR, GBLK, TXGSCN, TXGSCA. The tables are the parameters of R6. -/

namespace Sys2Proof.Machine

/-- Decimal digit `k` of `cap`, digit 0 the last (R271). -/
def decimalDigit (cap k : Nat) : Fin 10 := ⟨cap / 10 ^ k % 10, Nat.mod_lt _ (by decide)⟩

/-- `GSC_WORD2(a2, a1, a0)` (R271). -/
def gscWord2Of (p : Params) (t : Triple) : Nat :=
  (p.gscWord2[100 * t.1.val + 10 * t.2.1.val + t.2.2.val]'(by
    have h2 := t.1.isLt; have h1 := t.2.1.isLt; have h0 := t.2.2.isLt; omega)).val

/-- `gsc_illegal(word1, a2, a1, a0)` (R272): whether the triple is in the table that word1 selects. -/
def gscIllegal (p : Params) (word1 : Nat) (t : Triple) : Bool :=
  if word1 < 50 then p.gscIllLo.contains t else p.gscIllHi.contains t

/-- `gsc_pagerid(cap)` (R271): word1, word2 and the preamble index. -/
def gscPagerid (p : Params) (cap : Word) : Except CmdError (Nat × Nat × Fin 10) := do
  let c := cap.toNat
  require (decide (c ≤ 999999)) (.inputValidation .capcodeRange)
  let g0 := decimalDigit c 3
  let t : Triple := (decimalDigit c 2, decimalDigit c 1, decimalDigit c 0)
  let word1 := 10 * (decimalDigit c 4).val + g0.val
  require (!gscIllegal p word1 t) (.inputValidation .illegalCodeword)
  .ok (word1, gscWord2Of p t, ⟨(c / 100000 + g0.val) % 10, Nat.mod_lt _ (by decide)⟩)

/-- The Golay word of entry `w mod 50` of GSC_WORD, complemented when `flip` (R274). -/
def gscAddressWord (p : Params) (w : Nat) (flip : Bool) : BitVec 23 :=
  let g := golay p.golayPoly (p.gscWord[w % 50]'(Nat.mod_lt _ (by decide)))
  if flip then golayComplement g else g

/-- `gsc_addr(cap)` (R274): the first word is complemented for word1 of 50 and above, the second for word2
below 50. -/
def gscAddr (p : Params) (cap : Word) : Except CmdError (BitVec 23 × BitVec 23 × Fin 10) := do
  let r ← gscPagerid p cap
  .ok (gscAddressWord p r.1 (decide (50 ≤ r.1)), gscAddressWord p r.2.1 (decide (r.2.1 < 50)), r.2.2)

/-- `gsc_block(u)` (R276): seven coded characters and the coded checksum. -/
def gscBlock (u : List (BitVec 7)) : List (BitVec 15) := u.map bch15 ++ [bch15 (gscSum u)]

/-- `gsc_codes(m, map)` (R278): the mapped characters filled with GSC_FILL to whole groups of seven. -/
def gscCodes (p : Params) (table : List (Byte × BitVec 7)) (m : List Byte) : Except CmdError (List (BitVec 7)) := do
  let q ← encodeChars (tableMap table) m
  .ok (q ++ List.replicate (7 * ceilDiv m.length 7 - m.length) p.gscFill)

/-- `n` alternating bits that start with `b` (R279). -/
def alternating (b : Bool) (n : Nat) : List Bool := (List.range n).map fun k => b ^^ (k % 2 == 1)

/-- `gsc_comma_lead(p0)` (R279): the last comma bit differs from the first preamble bit `p0`. -/
def gscCommaLead (p : Params) (p0 : Bool) : List Bool :=
  alternating (!p0 ^^ ((p.gscCommaLead - 1) % 2 == 1)) p.gscCommaLead

/-- `gsc_comma_trail(z)` (R279): the first comma bit differs from the last bit `z` sent before it. -/
def gscCommaTrail (p : Params) (z : Bool) : List Bool := alternating (!z) p.gscCommaTrail

/-- `gsc_preamble(p)` (R280): 18 repeats of the codeword, every bit sent twice. -/
def gscPreamble (p : Params) (k : Fin 10) : List Bool :=
  (List.replicate 18 (repeatBits 2 (bitsMsb (golay p.golayPoly p.gscPreamble[k.val])))).flatten

/-- `gsc_start()` (R281): the code of 713, a transition bit, the complement. -/
def gscStart (p : Params) : List Bool :=
  let g := golay p.golayPoly 713#12
  bitsMsb g ++ [!g.getLsbD 0] ++ bitsMsb (golayComplement g)

/-- The data blocks of a GSC frame (R282): the continuation bit, set on all but the last block, before each. -/
def gscBlocks (q : List (BitVec 7)) : List Bool :=
  (List.range (q.length / 7)).flatMap fun k =>
    decide (k + 1 < q.length / 7) :: (gscBlock (chunk 7 k q)).flatMap bitsMsb

/-- `gsc_bits(cap, q)` (R282) for the address words and preamble index of `cap`. -/
def gscBits (p : Params) (a1 a2 : BitVec 23) (idx : Fin 10) (q : List (BitVec 7)) : List Bool :=
  let pre := gscPreamble p idx
  let s := gscCommaLead p (pre.headD false) ++ pre ++ gscStart p ++ bitsMsb a1 ++ bitsMsb a2 ++ gscBlocks q
  s ++ gscCommaTrail p (s.getLastD false)

/-- The effect of GPID (R273). -/
def gpidEffect (s : State) : Except CmdError State := do
  let r ← gscPagerid s.params s.op[0]
  .ok (((s.setRes 0 (BitVec.ofNat 32 r.1)).setRes 1 (BitVec.ofNat 32 r.2.1)).setRes 2 (BitVec.ofNat 32 r.2.2.val))

/-- GPID (R273). -/
def execGpid (s : State) : Answer := .next (s.endCommand (opcode .gpid) (gpidEffect s))

/-- The effect of GADDR (R275). -/
def gaddrEffect (s : State) : Except CmdError State := do
  let r ← gscAddr s.params s.op[0]
  .ok (((s.setRes 0 (r.1.setWidth 32)).setRes 1 (r.2.1.setWidth 32)).setRes 2 (BitVec.ofNat 32 r.2.2.val))

/-- GADDR (R275). -/
def execGaddr (s : State) : Answer := .next (s.endCommand (opcode .gaddr) (gaddrEffect s))

/-- GBLK (R277): the eight codewords over WB[0..7], whatever WB_LEN was. -/
def execGblk (s : State) : Answer :=
  let u := s.units
  .next (((s.setWords ((gscBlock u).map fun h => h.setWidth 32)).setRes 0 ((gscSum u).setWidth 32)).endOk
    (opcode .gblk))

/-- The effect of TXGSCN and TXGSCA (R283, R284) with a character table, its checks in the order of R285. -/
def gscFrameEffect (table : List (Byte × BitVec 7)) (s : State) : Except CmdError State := do
  s.requireConfigured
  let cap ← s.soleCapcode
  let a ← gscAddr s.params cap
  let m ← s.message
  let q ← gscCodes s.params table m
  s.queueFrame (gscBits s.params a.1 a.2.1 a.2.2 q)

/-- TXGSCN (R283): the numeric table. -/
def execTxgscn (s : State) : Answer :=
  .next (s.endCommand (opcode .txgscn) (gscFrameEffect s.params.gscNumMap s))

/-- TXGSCA (R284): the alphanumeric table. -/
def execTxgsca (s : State) : Answer :=
  .next (s.endCommand (opcode .txgsca) (gscFrameEffect s.params.gscAlphaMap s))

end Sys2Proof.Machine
end

