-- ==== Sys2Proof/Machine/Pocsag.lean ====
section
/-! DEFINITION. The POCSAG encoder of 43_pocsag.md: address word, message words, batches (R190 to R199), and the
commands PADDR, PMSGN, PMSGA, TXPOCN, TXPOCA (R192, R196, R197, R200, R201). -/

namespace Sys2Proof.Machine

/-- `POCSAG_SYNC` (R190). -/
def pocsagSync : Word := 0x7CD215D8#32

/-- `POCSAG_IDLE` (R190). -/
def pocsagIdle : Word := 0x7A89C197#32

/-- `POCSAG_PREAMBLE` (R190): 576 bits 1,0,1,0,... -/
def pocsagPreamble : List Bool := (List.range 576).map fun i => i % 2 == 0

/-- `pocsag_addr(cap, fb)` (R191): the address word and the frame offset. -/
def pocsagAddr (cap : Word) (fb : BitVec 2) : Except CmdError (Word × Nat) := do
  require (decide (cap ≤ 0x1FFFFF#32)) (.inputValidation .capcodeRange)
  .ok (bch31 (((cap >>> 3) <<< 13) ||| (fb.setWidth 32 <<< 11)), (cap &&& 7#32).toNat)

/-- `pocsag_words(s)` (R195): each 20 bits, first bit the most significant, under a set message flag. -/
def pocsagWords (s : List Bool) : List Word :=
  (List.range (s.length / 20)).map fun j =>
    bch31 (0x80000000#32 ||| (ofBitsMsb 32 (chunk 20 j s) <<< 11))

/-- `pocsag_num_words(m)` (R194): five digits to a word, each bit 0 first, filled with the space code. -/
def pocsagNumWords (m : List Byte) : Except CmdError (List Word) := do
  let ks ← encodeChars numMap m
  let s := ks.flatMap bitsLsb
  .ok (pocsagWords (fillTo (20 * ceilDiv s.length 20) (fun n => spaceCode.getLsbD (n % 4)) s))

/-- The EOT character POCSAG alphanumeric text ends with (R195). -/
def pocsagEot : Byte := 0x04#8

/-- `pocsag_alpha_words(m)` (R195): seven bits a character, bit 0 first, EOT appended, filled with zeros. -/
def pocsagAlphaWords (m : List Byte) : Except CmdError (List Word) := do
  let ks ← encodeChars asciiMap (m ++ [pocsagEot])
  let s := ks.flatMap bitsLsb
  .ok (pocsagWords (fillTo (20 * ceilDiv s.length 20) (fun _ => false) s))

/-- `pocsag_slots(aw, off, w)` (R198): whole batches of 16 slots, unused slots idle. -/
def pocsagSlots (aw : Word) (off : Nat) (w : List Word) : List Word :=
  let t := List.replicate (2 * off) pocsagIdle ++ [aw] ++ w ++ [pocsagIdle]
  t ++ List.replicate (16 * ceilDiv t.length 16 - t.length) pocsagIdle

/-- `pocsag_bits(t)` (R199): the preamble, then each batch's sync word and 16 slots. -/
def pocsagBits (t : List Word) : List Bool :=
  pocsagPreamble ++ (List.range (t.length / 16)).flatMap fun b =>
    bitsMsb pocsagSync ++ (chunk 16 b t).flatMap bitsMsb

/-- The effect of PADDR (R192). -/
def paddrEffect (s : State) : Except CmdError State := do
  let r ← pocsagAddr s.op[0] (s.op[1].setWidth 2)
  .ok ((s.setRes 0 r.1).setRes 1 (BitVec.ofNat 32 r.2))

/-- PADDR (R192). -/
def execPaddr (s : State) : Answer := .next (s.endCommand (opcode .paddr) (paddrEffect s))

/-- The effect of PMSGN and PMSGA (R196, R197) with the word builder `build`. -/
def pocsagMessageEffect (build : List Byte → Except CmdError (List Word)) (s : State) : Except CmdError State := do
  let m ← s.message
  let w ← build m
  require (decide (w.length ≤ Config.wbMax)) (.inputValidation .frameCapacity)
  .ok ((s.setWords w).setRes 0 (BitVec.ofNat 32 w.length))

/-- PMSGN (R196). -/
def execPmsgn (s : State) : Answer :=
  .next (s.endCommand (opcode .pmsgn) (pocsagMessageEffect pocsagNumWords s))

/-- PMSGA (R197). -/
def execPmsga (s : State) : Answer :=
  .next (s.endCommand (opcode .pmsga) (pocsagMessageEffect pocsagAlphaWords s))

/-- The effect of TXPOCN and TXPOCA (R200, R201), its checks in the order of R202. -/
def pocsagFrameEffect (fb : BitVec 2) (build : List Byte → Except CmdError (List Word)) (s : State) :
    Except CmdError State := do
  s.requireConfigured
  let cap ← s.soleCapcode
  let r ← pocsagAddr cap fb
  let m ← s.message
  let w ← build m
  s.queueFrame (pocsagBits (pocsagSlots r.1 r.2 w))

/-- TXPOCN (R200): function bits 00. -/
def execTxpocn (s : State) : Answer :=
  .next (s.endCommand (opcode .txpocn) (pocsagFrameEffect 0b00#2 pocsagNumWords s))

/-- TXPOCA (R201): function bits 11. -/
def execTxpoca (s : State) : Answer :=
  .next (s.endCommand (opcode .txpoca) (pocsagFrameEffect 0b11#2 pocsagAlphaWords s))

end Sys2Proof.Machine
end

