-- ==== Sys2Proof/Machine/Primitives.lean ====
section
/-! DEFINITION. The commands of 40_primitives.md: SETRATE, SETPOL, REV32, EPAR, BCH31, GOLAY, BCH15, BVLIT
(R100 to R107). -/

namespace Sys2Proof.Machine

/-- SETRATE (R100): ZERO_RATE before RATE_NOT_MULTIPLE; a failure clears the rates besides reporting (R314). -/
def execSetrate (s : State) : Answer :=
  let b := s.op[0].toNat
  let r := s.op[1].toNat
  .next <|
    if b = 0 ∨ r = 0 then s.clearRates.endError (.configuration .zeroRate) (opcode .setrate)
    else if r % b ≠ 0 then s.clearRates.endError (.configuration .rateNotMultiple) (opcode .setrate)
    else State.endOk
      { s with baud := s.op[0], symrate := s.op[1], repeatCount := BitVec.ofNat 32 (r / b), cfgOk := true }
      (opcode .setrate)

/-- SETPOL (R101): POL_INV from bit 0 of OP[0]. -/
def execSetpol (s : State) : Answer :=
  .next (State.endOk { s with polInv := s.op[0].getLsbD 0 } (opcode .setpol))

/-- REV32 (R102). -/
def execRev32 (s : State) : Answer :=
  .next ((s.setRes 0 (rev32 s.op[0])).endOk (opcode .rev32))

/-- EPAR (R103). -/
def execEpar (s : State) : Answer :=
  .next ((s.setRes 0 ((BitVec.ofBool (epar s.op[0])).setWidth 32)).endOk (opcode .epar))

/-- The effect of BCH31 (R104): the check of the systematic property, then the result. -/
def bch31Effect (s : State) : Except CmdError State := do
  let w := bch31 s.op[0]
  require (w.extractLsb' 11 21 == s.op[0].extractLsb' 11 21) (.invariantViolation .systematic)
  .ok (s.setRes 0 w)

/-- BCH31 (R104). -/
def execBch31 (s : State) : Answer := .next (s.endCommand (opcode .bch31) (bch31Effect s))

/-- GOLAY (R105): the codeword in RES[0], its parity bits in RES[1]. -/
def execGolay (s : State) : Answer :=
  let g := golay s.params.golayPoly (s.op[0].setWidth 12)
  .next (((s.setRes 0 (g.setWidth 32)).setRes 1 ((g.extractLsb' 0 11).setWidth 32)).endOk (opcode .golay))

/-- BCH15 (R106): the codeword in RES[0], its parity bits in RES[1]. -/
def execBch15 (s : State) : Answer :=
  let h := bch15 (s.op[0].setWidth 7)
  .next (((s.setRes 0 (h.setWidth 32)).setRes 1 ((h.extractLsb' 0 8).setWidth 32)).endOk (opcode .bch15))

/-- The bits of a literal (R107): '0', '1', spaces skipped; any other character raises INVALID_FORMAT. -/
def literalBits : List Byte → Except CmdError (List Bool)
  | [] => .ok []
  | c :: cs =>
    if c = 0x30#8 then (literalBits cs).map (false :: ·)
    else if c = 0x31#8 then (literalBits cs).map (true :: ·)
    else if c = 0x20#8 then literalBits cs
    else .error .invalidFormat

/-- The effect of BVLIT (R107). -/
def bvlitEffect (s : State) : Except CmdError State := do
  let m ← s.message
  let b ← literalBits m
  .ok (State.setRes { s with bv := b } 0 (BitVec.ofNat 32 b.length))

/-- BVLIT (R107). -/
def execBvlit (s : State) : Answer := .next (s.endCommand (opcode .bvlit) (bvlitEffect s))

end Sys2Proof.Machine
end

