-- ==== Sys2Proof/Machine/Queue.lean ====
section
/-! DEFINITION. The commands of 42_queue.md: PUSHBIT, PUSHRAW, PUSHBV, POP, DEPTH, EMPTY (R162 to R168). -/

namespace Sys2Proof.Machine

/-- The effect of PUSHBIT (R162). -/
def pushbitEffect (s : State) : Except CmdError State := do
  s.requireConfigured
  s.pushBits [s.op[0].getLsbD 0]

/-- PUSHBIT (R162). -/
def execPushbit (s : State) : Answer := .next (s.endCommand (opcode .pushbit) (pushbitEffect s))

/-- The first `n` bits of the message buffer, bit 7 of each byte first (R163). -/
def State.rawBits (s : State) (n : Nat) : List Bool :=
  (List.range n).map fun i => (Memory.read s.msg (i / 8)).getLsbD (7 - i % 8)

/-- The effect of PUSHRAW (R163). -/
def pushrawEffect (s : State) : Except CmdError State := do
  s.requireConfigured
  let n := s.op[0].toNat
  require (decide (s.msgLen.toNat ≤ Config.msgMax ∧ 0 < n ∧ n ≤ 8 * s.msgLen.toNat)) (.inputValidation .length)
  let r ← s.fifoAppendRaw (s.rawBits n)
  .ok (r.1.setRes 0 (countWord r.2))

/-- PUSHRAW (R163). -/
def execPushraw (s : State) : Answer := .next (s.endCommand (opcode .pushraw) (pushrawEffect s))

/-- The effect of PUSHBV (R164): BV is not consumed. -/
def pushbvEffect (s : State) : Except CmdError State := do
  s.requireConfigured
  s.pushBits s.bv

/-- PUSHBV (R164). -/
def execPushbv (s : State) : Answer := .next (s.endCommand (opcode .pushbv) (pushbvEffect s))

/-- `sym(b)` (R168): +1 or -1 by the bit and CTRL.POL_INV. -/
def symbolOf (polInv b : Bool) : Word := if b ^^ polInv then 0x00000001#32 else 0xFFFFFFFF#32

/-- The number of symbols a POP removes (R165). -/
def State.popCount (s : State) : Nat := min (min s.op[0].toNat s.fifo.length) Config.popMax

/-- POP (R165): the oldest symbols go to OUT[0..n-1]; later entries of OUT keep their values. -/
def execPop (s : State) : Answer :=
  let n := s.popCount
  let t := { s with out := Memory.writeList s.out 0 ((s.fifo.take n).map (symbolOf s.polInv)),
                    fifo := s.fifo.drop n }
  .next ((t.setRes 0 (BitVec.ofNat 32 n)).endOk (opcode .pop))

/-- DEPTH (R166). -/
def execDepth (s : State) : Answer :=
  .next ((s.setRes 0 (countWord s.fifo.length)).endOk (opcode .depth))

/-- EMPTY (R167). -/
def execEmpty (s : State) : Answer :=
  .next ((s.setRes 0 ((BitVec.ofBool s.fifoEmpty).setWidth 32)).endOk (opcode .empty))

end Sys2Proof.Machine
end

