-- ==== Sys2Proof/Machine/Dispatch.lean ====
section
/-! DEFINITION. The meaning of each command: one arm per row of the opcode map (30_encoding.md R85). -/

namespace Sys2Proof.Machine

def exec (i : Instr) (s : State) : Host.Outcome State Fault Refusal :=
  match i with
  | .setrate => Sys2Proof.Machine.execSetrate s
  | .setpol => Sys2Proof.Machine.execSetpol s
  | .rev32 => Sys2Proof.Machine.execRev32 s
  | .epar => Sys2Proof.Machine.execEpar s
  | .bch31 => Sys2Proof.Machine.execBch31 s
  | .golay => Sys2Proof.Machine.execGolay s
  | .bch15 => Sys2Proof.Machine.execBch15 s
  | .bvlit => Sys2Proof.Machine.execBvlit s
  | .fxcsum => Sys2Proof.Machine.execFxcsum s
  | .fxasum => Sys2Proof.Machine.execFxasum s
  | .fxnsum => Sys2Proof.Machine.execFxnsum s
  | .gscsum => Sys2Proof.Machine.execGscsum s
  | .pushbit => Sys2Proof.Machine.execPushbit s
  | .pushraw => Sys2Proof.Machine.execPushraw s
  | .pushbv => Sys2Proof.Machine.execPushbv s
  | .pop => Sys2Proof.Machine.execPop s
  | .depth => Sys2Proof.Machine.execDepth s
  | .empty => Sys2Proof.Machine.execEmpty s
  | .paddr => Sys2Proof.Machine.execPaddr s
  | .pmsgn => Sys2Proof.Machine.execPmsgn s
  | .pmsga => Sys2Proof.Machine.execPmsga s
  | .txpocn => Sys2Proof.Machine.execTxpocn s
  | .txpoca => Sys2Proof.Machine.execTxpoca s
  | .fsaddr => Sys2Proof.Machine.execFsaddr s
  | .fcw => Sys2Proof.Machine.execFcw s
  | .ffiw => Sys2Proof.Machine.execFfiw s
  | .fbiw => Sys2Proof.Machine.execFbiw s
  | .fvecn => Sys2Proof.Machine.execFvecn s
  | .fveca => Sys2Proof.Machine.execFveca s
  | .fmsgn => Sys2Proof.Machine.execFmsgn s
  | .fmsga => Sys2Proof.Machine.execFmsga s
  | .intlv => Sys2Proof.Machine.execIntlv s
  | .txflxn => Sys2Proof.Machine.execTxflxn s
  | .txflxa => Sys2Proof.Machine.execTxflxa s
  | .gpid => Sys2Proof.Machine.execGpid s
  | .gaddr => Sys2Proof.Machine.execGaddr s
  | .gblk => Sys2Proof.Machine.execGblk s
  | .txgscn => Sys2Proof.Machine.execTxgscn s
  | .txgsca => Sys2Proof.Machine.execTxgsca s

end Sys2Proof.Machine
end

