-- ==== Sys2Proof/Machine/Step.lean ====
section
/-! DEFINITION. One step of the machine: the host's next access, performed whole before any other (20_memory.md R60).
A write of CMD runs the command it selects to completion; with no access to come MIXCORE is idle (R324, R352). -/

namespace Sys2Proof.Machine

/-- Run the command a CMD value selects (R81). -/
def runCommand (c : Word) (s : State) : Host.Outcome State Fault Refusal :=
  match decode c with
  | .ok i => exec i s
  | .error _ => .next (s.illegalCommand c)

/-- One host access (R60, R62, R340). -/
def step (s : State) : Host.Outcome State Fault Refusal :=
  match s.pending with
  | [] => .next s
  | .read a :: rest => .next { s with pending := rest, readData := some (s.memRead a) }
  | .reset :: rest => .next (State.hostReset { s with pending := rest })
  | .write a v :: rest =>
    if a = cmdAddr then runCommand v { s with pending := rest }
    else .next (State.memWrite { s with pending := rest } a v)

/-- `s` with the command word of an opcode-table row as the host's next access, a write of CMD. -/
def State.withFetchWord (s : State) (nbits w : Nat) : State :=
  s.queueAccess (.write cmdAddr (tableWord nbits w))

end Sys2Proof.Machine
end

