-- ==== Sys2Proof/Safety.lean ====
section
/-! DEFINITION. What counts as a good state and a safe command, in the terms the claims use: the state invariants the
spec states (10_state.md R25, R28, R29, R33, R34, R35), the classes of commands it names (60_exceptions.md R325,
10_state.md R32), and the two shapes of a STATUS report with its codes as numbers (R310 to R312). -/

namespace Sys2Proof.Machine

/-- The buffers MSG, WB and OUT are in canonical form, each within its size (R30, R32, R33). -/
abbrev State.BuffersCanonical (s : State) : Prop :=
  Memory.wf Config.msgMax s.msg = true ∧ Memory.wf Config.wbMax s.wb = true ∧ Memory.wf Config.popMax s.out = true

/-- The FIFO holds at most FIFO_CAP symbols (R29, R35). -/
abbrev State.FifoWithinCapacity (s : State) : Prop := s.fifo.length ≤ s.params.fifoCap

/-- BV holds at most BV_MAX bits (R34). -/
abbrev State.BvWithinSize (s : State) : Prop := s.bv.length ≤ Config.bvMax

/-- The rate registers agree with CFG_OK (R28): configured, BAUD is not 0, divides SYMRATE, and REPEAT is the
quotient, at least 1; not configured, all three are 0. -/
abbrev State.RatesConsistent (s : State) : Prop :=
  if s.cfgOk then
    s.baud ≠ 0 ∧ s.symrate.toNat % s.baud.toNat = 0 ∧ s.repeatCount.toNat = s.symrate.toNat / s.baud.toNat
      ∧ 1 ≤ s.repeatCount.toNat
  else s.baud = 0 ∧ s.symrate = 0 ∧ s.repeatCount = 0

/-- The pairs (RESULT, DETAIL) of R310 and R311. -/
def reportCodes : List (BitVec 4 × BitVec 4) :=
  [(0, 0), (1, 1), (1, 2), (1, 3), (1, 4), (1, 5), (1, 6), (1, 7), (2, 0), (3, 1), (3, 2), (3, 3), (4, 1), (4, 2),
   (5, 0), (6, 0)]

/-- STATUS holds a pair of codes the spec gives, and an error has set STICKY_ERR (R25, R310, R311). -/
abbrev State.StatusLegal (s : State) : Prop :=
  (s.result, s.detail) ∈ reportCodes ∧ (s.result ≠ 0 → s.stickyErr = true)

/-- Every OUT entry is +1, -1 or the reset value 0 (R33). -/
abbrev State.OutputsAreSymbols (s : State) : Prop :=
  ∀ k, Memory.read s.out k = 0 ∨ Memory.read s.out k = 0x00000001#32 ∨ Memory.read s.out k = 0xFFFFFFFF#32

/-- The state invariant: what the spec says of every state a run reaches, and parameters as R6 constrains them. -/
structure State.Inv (s : State) : Prop where
  buffers : s.BuffersCanonical
  fifo : s.FifoWithinCapacity
  bv : s.BvWithinSize
  rates : s.RatesConsistent
  status : s.StatusLegal
  outputs : s.OutputsAreSymbols
  params : s.params.wf = true

/-- The ten commands gated by CFG_OK, which are those that append to the FIFO (R325). -/
def cfgGated : List Instr :=
  [.pushbit, .pushraw, .pushbv, .intlv, .txpocn, .txpoca, .txflxn, .txflxa, .txgscn, .txgsca]

/-- The six frame sequencers (R32). -/
def frameSequencers : List Instr := [.txpocn, .txpoca, .txflxn, .txflxa, .txgscn, .txgsca]

/-- The five word builders, which write WB and WB_LEN (R32, R348). -/
def wordBuilders : List Instr := [.pmsgn, .pmsga, .fmsgn, .fmsga, .gblk]

/-- The commands whose rule names RES[1] among what it writes (the "writes" column of R85). -/
def secondResultWriters : List Instr :=
  [.golay, .bch15, .paddr, .txpocn, .txpoca, .ffiw, .fbiw, .fvecn, .fveca, .fmsgn, .fmsga, .txflxn, .txflxa, .gpid,
   .gaddr, .txgscn, .txgsca]

/-- The report of a command that completed (R312): RESULT 0, DETAIL 0, LAST_OP; STICKY_ERR as it was. -/
def State.reportOk (s : State) (opc : Byte) : State := { s with result := 0, detail := 0, lastOp := opc }

/-- The report of a command that failed (R312): the codes, LAST_OP, and STICKY_ERR set. -/
def State.reportError (s : State) (result detail : BitVec 4) (opc : Byte) : State :=
  { s with result := result, detail := detail, lastOp := opc, stickyErr := true }

/-- An index that names no register (R61, R63). -/
abbrev unmapped (a : RegAddr) : Prop :=
  (0x0017 ≤ a.toNat ∧ a.toNat ≤ 0x001F) ∨ (0x0028 ≤ a.toNat ∧ a.toNat ≤ 0x00FF)
    ∨ (0x0280 ≤ a.toNat ∧ a.toNat ≤ 0x03FF) ∨ 0x0800 ≤ a.toNat

/-- A register the host may write (the access column of R61). -/
def hostWritable : Reg → Bool
  | .op _ => true
  | .msgLen => true
  | .capCount => true
  | .wbLen => true
  | .cap _ => true
  | .msg _ => true
  | .wb _ => true
  | .cmd => false
  | .status => false
  | .ctrl => false
  | .baud => false
  | .symrate => false
  | .repeatCount => false
  | .fifoDepth => false
  | .bvLen => false
  | .res _ => false
  | .out _ => false

/-- What a register holds after the host wrote `v` to it: MSG keeps bits [7:0], the others all 32 (R39). -/
def storedValue : Reg → Word → Word
  | .msg _, v => v &&& 0xFF#32
  | _, v => v

/-- A POCSAG or FLEX codeword (R104): bits [31:1] are a multiple of the BCH(31,21) generator, and the number of ones
is even. -/
def IsPagingCodeword (w : Word) : Prop := polymod (w >>> 1) 0x769#32 10 = 0 ∧ popcount w % 2 = 0

/-- The codeword `w` carries the FLEX dataword `d`: information bit `k` at bit `31 - k` (R65, R66, R220). -/
def CarriesDataword (w d : Word) : Prop := IsPagingCodeword w ∧ ∀ k < 21, w.getLsbD (31 - k) = d.getLsbD k

/-- A 21-bit FLEX control word with a correct word checksum (R140): the five fields and the checksum nibble add up to
15 modulo 16. -/
def HasFlexWordChecksum (d : Word) : Prop :=
  d.extractLsb' 21 11 = 0 ∧
    ((d.extractLsb' 0 4).toNat + (d.extractLsb' 4 4).toNat + (d.extractLsb' 8 4).toNat + (d.extractLsb' 12 4).toNat
      + (d.extractLsb' 16 4).toNat + (d.extractLsb' 20 1).toNat) % 16 = 15

/-- A BCH(15,7) codeword of the unit `u` (R106). -/
def IsGscCodeword (h : BitVec 15) (u : BitVec 7) : Prop :=
  h.extractLsb' 8 7 = u ∧ polymod h 0x1D1#15 8 = 0

/-- What the steps of a run appended to the FIFO, in order (R350). -/
def appendHistory : Nat → State → List Bool
  | 0, _ => []
  | k + 1, s =>
    match step s with
    | .next t => t.fifo.drop s.fifo.length ++ appendHistory k t
    | .fault _ => []
    | .refused _ => []

/-! ### What the encoders must have built

Each predicate reads the rules of 43_pocsag.md to 45_gsc.md bit by bit, apart from the definitions of Machine/. -/

/-- The `n` POCSAG numeric words of the digit codes `ks` (R194, R195): codewords with bit 31 set, five digits each,
bit 0 of a digit first from bit 30 down, unused places holding the space code. -/
def IsPocsagNumericMessage (w : Nat → Word) (n : Nat) (ks : List (BitVec 4)) : Prop :=
  ∀ j < n, IsPagingCodeword (w j) ∧ (w j).getLsbD 31 = true
    ∧ ∀ i < 5, ∀ b < 4, (w j).getLsbD (30 - 4 * i - b) = (ks.getD (5 * j + i) 0xC#4).getLsbD b

/-- The `n` POCSAG alphanumeric words of the bytes `m` and EOT (R195): codewords with bit 31 set, the characters'
bits seven to a character, bit 0 first, from bit 30 of each word down, zeros after the last. -/
def IsPocsagAlphaMessage (w : Nat → Word) (n : Nat) (m : List Byte) : Prop :=
  ∀ j < n, IsPagingCodeword (w j) ∧ (w j).getLsbD 31 = true
    ∧ ∀ b < 20, (w j).getLsbD (30 - b)
        = (decide (20 * j + b < 7 * (m.length + 1))
            && ((m ++ [0x04#8]).getD ((20 * j + b) / 7) 0).getLsbD ((20 * j + b) % 7))

/-- The POCSAG address word of a capcode and function bits (R191). -/
def IsPocsagAddress (aw cap : Word) (fb : BitVec 2) : Prop :=
  aw.getLsbD 31 = false ∧ aw.extractLsb' 13 18 = cap.extractLsb' 3 18 ∧ aw.extractLsb' 11 2 = fb
    ∧ IsPagingCodeword aw

/-- The word in slot `j` of a POCSAG page (R198): the address `aw` at slot `2·off`, the message `w` after it, idle
words elsewhere. -/
def pocsagSlotWord (aw : Word) (off : Nat) (w : List Word) (j : Nat) : Word :=
  if j = 2 * off then aw
  else if 2 * off < j ∧ j ≤ 2 * off + w.length then w.getD (j - 2 * off - 1) 0
  else 0x7A89C197#32

/-- The bits `x` are a POCSAG transmission of `b` batches (R190, R198, R199): the preamble, then in each batch the
sync word and sixteen slots, each most significant bit first. -/
def IsPocsagPage (x : List Bool) (b : Nat) (aw : Word) (off : Nat) (w : List Word) : Prop :=
  x.length = 576 + 544 * b ∧ (∀ i < 576, x[i]? = some (decide (i % 2 = 0)))
    ∧ ∀ k < b, (∀ i < 32, x[576 + 544 * k + i]? = some ((0x7CD215D8#32).getLsbD (31 - i)))
      ∧ ∀ j < 16, ∀ i < 32, x[576 + 544 * k + 32 + 32 * j + i]?
          = some ((pocsagSlotWord aw off w (16 * k + j)).getLsbD (31 - i))

/-- The Block Info Word 1 dataword of a template and a vector start (R225). -/
def IsBlockInfoWord (d p : Word) (v : Nat) : Prop :=
  HasFlexWordChecksum d ∧ d.extractLsb' 4 6 = p.extractLsb' 4 6 ∧ d.extractLsb' 10 6 = BitVec.ofNat 6 v
    ∧ d.extractLsb' 16 5 = p.extractLsb' 16 5

/-- The numeric vector dataword of message start `b`, word count `w` and checksum `k` (R227). -/
def IsNumericVector (d : Word) (b w : Nat) (k : BitVec 6) : Prop :=
  HasFlexWordChecksum d ∧ d.extractLsb' 4 3 = 3#3 ∧ d.extractLsb' 7 7 = BitVec.ofNat 7 b
    ∧ d.extractLsb' 14 3 = BitVec.ofNat 3 (w - 1) ∧ d.extractLsb' 17 4 = k.extractLsb' 0 4

/-- The alphanumeric vector dataword of message start `b` and word count `w` (R229). -/
def IsAlphaVector (d : Word) (b w : Nat) : Prop :=
  HasFlexWordChecksum d ∧ d.extractLsb' 4 3 = 5#3 ∧ d.extractLsb' 7 7 = BitVec.ofNat 7 b
    ∧ d.extractLsb' 14 7 = BitVec.ofNat 7 w

/-- The `n` FLEX numeric datawords of the digit codes `ks` with checksum `k` (R231): 21 bits each, the checksum's two
most significant bits first, then four bits a digit, bit 0 first, then the space code; the checksum completes the sum
of the words to 63 modulo 64. -/
def IsFlexNumericMessage (w : Nat → Word) (n : Nat) (ks : List (BitVec 4)) (k : BitVec 6) : Prop :=
  (∀ j < n, (w j).extractLsb' 21 11 = 0) ∧ (w 0).extractLsb' 0 2 = k.extractLsb' 4 2
    ∧ (∀ p < 21 * n - 2, (w ((p + 2) / 21)).getLsbD ((p + 2) % 21) = (ks.getD (p / 4) 0xC#4).getLsbD (p % 4))
    ∧ ((w 0 &&& 0x1FFFFC#32).toNat + ((List.range (n - 1)).map fun j => (w (j + 1)).toNat).sum + k.toNat) % 64 = 63

/-- The `n` FLEX alphanumeric datawords of the bytes `m` under the header template `h` with checksum `k` in a build with
parameters `p` (R233, R234, R236): the header, the build's signature (by default the one that completes the sum of the
characters to 127 modulo 128) and the characters seven bits each, ETX in unused slots; the words add up to 1023 modulo
1024. -/
def IsFlexAlphaMessage (p : Params) (w : Nat → Word) (n : Nat) (m : List Byte) (h : Word) (k : BitVec 10) : Prop :=
  (∀ j < n, (w j).extractLsb' 21 11 = 0) ∧ (w 0).extractLsb' 10 11 = h.extractLsb' 10 11
    ∧ (w 0).extractLsb' 0 10 = k
    ∧ (p.flexSignature = .decided → (((w 1).extractLsb' 0 7).toNat + (m.map BitVec.toNat).sum) % 128 = 127)
    ∧ (p.flexSignature = .substituted → (w 1).extractLsb' 0 7 = Config.flexSigSubstitute m)
    ∧ (∀ i < 3 * n - 4, (w (1 + (i + 1) / 3)).extractLsb' (7 * ((i + 1) % 3)) 7 = (m.getD i 0x03#8).setWidth 7)
    ∧ ((List.range n).map fun j => (w j).toNat).sum % 1024 = 1023

/-- The dataword of word `j` of a FLEX frame (R239, R240): Block Info Word 1, the addresses, a vector for each, the
message, then idle words from 0x000000 on. -/
def flexFrameDataword (caps w : List Word) (biw vec : Word) (j : Nat) : Word :=
  if j = 0 then biw
  else if j ≤ caps.length then caps.getD (j - 1) 0
  else if j ≤ 2 * caps.length then vec
  else if j ≤ 2 * caps.length + w.length then w.getD (j - 2 * caps.length - 1) 0
  else if (j - (2 * caps.length + w.length + 1)) % 2 = 0 then 0x000000#32 else 0x1FFFFF#32

/-- The bits `x` are the FLEX transmission of the frame info word `fiw` and the 88 codewords `word` (R237, R241):
each block of eight words bit by bit across the words, from bit 31 down. -/
def IsFlexTransmission (x : List Bool) (p : Params) (fiw : Word) (word : Nat → Word) : Prop :=
  x.length = p.flexSync1.length + 32 + p.flexSync2.length + 2816
    ∧ x.take p.flexSync1.length = p.flexSync1
    ∧ (∀ i < 32, x[p.flexSync1.length + i]? = some (fiw.getLsbD (31 - i)))
    ∧ (x.drop (p.flexSync1.length + 32)).take p.flexSync2.length = p.flexSync2
    ∧ ∀ i < 2816, x[p.flexSync1.length + 32 + p.flexSync2.length + i]?
        = some ((word (8 * (i / 256) + i % 8)).getLsbD (31 - i % 256 / 8))

/-- The bits `x` are the GSC transmission (R279 to R282) of the preamble codeword `g`, the address codewords `a1` and
`a2` and the `7·b` character codes `q`: a comma that alternates without a break into the preamble, 18 repeats of `g`
with every bit twice, the start code, a transition bit and its complement, the address, the blocks, and a comma that
alternates on from the last block bit. -/
def IsGscTransmission (x : List Bool) (p : Params) (g a1 a2 : BitVec 23) (b : Nat) (q : List (BitVec 7)) : Prop :=
  let n := p.gscCommaLead
  let start := golay p.golayPoly 713#12
  x.length = n + 828 + 47 + 46 + 121 * b + p.gscCommaTrail
    ∧ (∀ i < n, x.getD i false = !x.getD (i + 1) false)
    ∧ (∀ i < 828, x[n + i]? = some (g.getLsbD (22 - i % 46 / 2)))
    ∧ (∀ i < 23, x[n + 828 + i]? = some (start.getLsbD (22 - i)))
    ∧ x[n + 828 + 23]? = some (!start.getLsbD 0)
    ∧ (∀ i < 23, x[n + 828 + 24 + i]? = some (!start.getLsbD (22 - i)))
    ∧ (∀ i < 23, x[n + 828 + 47 + i]? = some (a1.getLsbD (22 - i)))
    ∧ (∀ i < 23, x[n + 828 + 47 + 23 + i]? = some (a2.getLsbD (22 - i)))
    ∧ (∀ k < b, x[n + 921 + 121 * k]? = some (decide (k + 1 < b))
        ∧ ∃ h : Nat → BitVec 15, (∀ c < 7, IsGscCodeword (h c) (q.getD (7 * k + c) 0))
          ∧ IsGscCodeword (h 7) (BitVec.ofNat 7 ((List.range 7).map fun c => (q.getD (7 * k + c) 0).toNat).sum)
          ∧ ∀ c < 8, ∀ i < 15, x[n + 921 + 121 * k + 1 + 15 * c + i]? = some ((h c).getLsbD (14 - i)))
    ∧ ∀ i < p.gscCommaTrail,
        x.getD (n + 921 + 121 * b + i) false = !x.getD (n + 921 + 121 * b + i - 1) false

end Sys2Proof.Machine
end

