-- ==== Sys2Proof/Certificates/Slice0/Obligations.lean ====
section
/-! DEFINITION. The statements for the provers: what the numbered rules of the spec say of a command or of the
machine. A command's completion statement gives the whole next state: what is not named in the record update is as
before, STATUS.STICKY_ERR and every buffer entry included. -/

open Sys2Proof Sys2Proof.Machine

/-! ### Encoding and the register map -/

/-- R88, and by R85 a word of each further family: command words written out from the encoding, and illegal ones. -/
def Obligations.CommandWordsDecode : Prop :=
  decode 0x00000012#32 = .ok .bch31 ∧ decode 0x00000044#32 = .ok .txpoca
    ∧ decode 0x00000112#32 = .error .reservedBits ∧ decode 0x00000001#32 = .ok .setrate
    ∧ decode 0x00000023#32 = .ok .gscsum ∧ decode 0x00000033#32 = .ok .pop ∧ decode 0x0000005A#32 = .ok .txflxa
    ∧ decode 0x00000062#32 = .ok .gblk ∧ decode 0x000000FF#32 = .error .unassignedOpcode

/-- R80, R81, R82, R85: a word decodes to a command exactly when it is that command's word; it is refused exactly when
its reserved bits are not 0 or its opcode is none of the 39; and 217 opcode values are unassigned. -/
def Obligations.DecodeExactlyEncodedWords : Prop :=
  (∀ (c : Word) (i : Instr), decode c = .ok i ↔ c = encode i)
    ∧ (∀ c : Word, (∃ e, decode c = .error e) ↔ (c.extractLsb' 8 24 ≠ 0 ∨ c.setWidth 8 ∉ assignedOpcodes))
    ∧ ((List.range 256).filter fun o => !assignedOpcodes.contains (BitVec.ofNat 8 o)).length = 217

/-- R61: an index names a register exactly when it is that register's index, and the unmapped ranges name none. -/
def Obligations.RegisterMapIsExact : Prop :=
  (∀ (a : RegAddr) (r : Reg), regAt a = some r ↔ regIndex r = a) ∧ ∀ a : RegAddr, regAt a = none ↔ unmapped a

/-! ### The host's accesses -/

/-- R60, R70: when the host's next access writes CMD with a word that decodes, the step is that command's meaning on
the state from which the access has been taken. -/
def Obligations.StepRunsDecodedCommand : Prop :=
  ∀ (s : State) (c : Word) (i : Instr) (rest : List HostAccess),
    s.pending = .write 0x0000#16 c :: rest → decode c = .ok i → step s = exec i { s with pending := rest }

/-- R81: a CMD value with reserved bits set or an unassigned opcode changes STATUS alone (RESULT 5, DETAIL 0,
LAST_OP `c[7:0]`, STICKY_ERR 1); any other value runs the command it selects. -/
def Obligations.IllegalCommandChangesOnlyStatus : Prop :=
  ∀ (s : State) (c : Word) (rest : List HostAccess), s.pending = .write 0x0000#16 c :: rest →
    ((c.extractLsb' 8 24 ≠ 0 ∨ c.setWidth 8 ∉ assignedOpcodes) →
      step s = .next (State.reportError { s with pending := rest } 5 0 (c.setWidth 8)))
    ∧ ∀ i : Instr, c = encode i → step s = exec i { s with pending := rest }

/-- R61, R62, R64, and R22 to R34 for what is read: a register read answers the register's value to the host and changes
nothing else; and at the index the register map gives it every register reads as the state it names: CMD 0, STATUS and
CTRL field by field with their reserved bits 0, OP, RES, the rates, the lengths, the capcodes, the buffer entries (a MSG
byte zero-extended), FIFO_DEPTH and BV_LEN the lengths of the FIFO and of BV (a FIFO length that no register can hold is
left open: notes/assumptions/3.md). -/
def Obligations.HostReadHasNoSideEffect : Prop :=
  (∀ (s : State) (a : RegAddr) (rest : List HostAccess), s.pending = .read a :: rest →
    step s = .next { s with pending := rest, readData := some (s.memRead a) })
  ∧ ∀ s : State,
    s.memRead 0x0000#16 = 0
    ∧ (s.memRead 0x0001#16).extractLsb' 0 4 = s.result ∧ (s.memRead 0x0001#16).extractLsb' 4 4 = s.detail
    ∧ (s.memRead 0x0001#16).extractLsb' 8 8 = s.lastOp ∧ (s.memRead 0x0001#16).getLsbD 16 = s.cfgOk
    ∧ (s.memRead 0x0001#16).getLsbD 17 = decide (s.fifo = []) ∧ (s.memRead 0x0001#16).getLsbD 18 = false
    ∧ (s.memRead 0x0001#16).getLsbD 19 = s.stickyErr ∧ (s.memRead 0x0001#16).extractLsb' 20 12 = 0
    ∧ (s.memRead 0x0002#16).getLsbD 0 = s.polInv ∧ (s.memRead 0x0002#16).extractLsb' 1 31 = 0
    ∧ s.memRead 0x0003#16 = s.baud ∧ s.memRead 0x0004#16 = s.symrate ∧ s.memRead 0x0005#16 = s.repeatCount
    ∧ (s.fifo.length < 2 ^ 32 → (s.memRead 0x0006#16).toNat = s.fifo.length)
    ∧ (s.bv.length ≤ 256 → (s.memRead 0x0007#16).toNat = s.bv.length)
    ∧ (∀ k : Fin 8, s.memRead (BitVec.ofNat 16 (0x0008 + k.val)) = s.op[k.val])
    ∧ (∀ k : Fin 4, s.memRead (BitVec.ofNat 16 (0x0010 + k.val)) = s.res[k.val])
    ∧ s.memRead 0x0014#16 = s.msgLen ∧ s.memRead 0x0015#16 = s.capCount ∧ s.memRead 0x0016#16 = s.wbLen
    ∧ (∀ k : Fin 8, s.memRead (BitVec.ofNat 16 (0x0020 + k.val)) = s.cap[k.val])
    ∧ (∀ k : Fin 256, s.memRead (BitVec.ofNat 16 (0x0100 + k.val)) = (Memory.read s.msg k.val).setWidth 32)
    ∧ (∀ k : Fin 128, s.memRead (BitVec.ofNat 16 (0x0200 + k.val)) = Memory.read s.wb k.val)
    ∧ ∀ k : Fin 1024, s.memRead (BitVec.ofNat 16 (0x0400 + k.val)) = Memory.read s.out k.val

/-- R63: a read of an unmapped index returns 0 and a write to one has no effect; neither changes STATUS. -/
def Obligations.UnmappedIndexReadsZeroIgnoresWrites : Prop :=
  ∀ (s : State) (a : RegAddr) (v : Word) (rest : List HostAccess), unmapped a →
    (s.pending = .read a :: rest → step s = .next { s with pending := rest, readData := some 0 })
    ∧ (s.pending = .write a v :: rest → step s = .next { s with pending := rest })

/-- R39: a host write stores the written value in a read-write register (MSG[j] keeps bits [7:0]), has no effect on a
read-only one, and leaves every other register, the FIFO and BV alone; CMD reads 0. -/
def Obligations.HostWriteStoresOrIsIgnored : Prop :=
  (∀ (s : State) (r : Reg) (v : Word) (rest : List HostAccess), r ≠ .cmd →
    s.pending = .write (regIndex r) v :: rest →
      ∃ t, step s = .next t ∧ t.pending = rest ∧ t.readData = s.readData ∧ t.fifo = s.fifo ∧ t.bv = s.bv
        ∧ t.params = s.params
        ∧ ∀ q : Reg, t.memRead (regIndex q)
            = if q = r ∧ hostWritable r = true then storedValue r v else s.memRead (regIndex q))
    ∧ ∀ s : State, s.memRead 0x0000#16 = 0

/-- R38, R340, R341: after reset every register reads 0 but STATUS, which reads 0x00020000, and BV and the FIFO are
empty; when the host asserts reset, every piece of state takes its reset value and the parameters are not changed.
That the host's own accesses and its last read value stay is the model's (notes/assumptions/2.md). -/
def Obligations.ResetRestoresStatedValues : Prop :=
  (∀ a : RegAddr, State.reset.memRead a = if a = 0x0001#16 then 0x00020000#32 else 0)
    ∧ State.reset.bv = [] ∧ State.reset.fifo = []
    ∧ ∀ (s : State) (rest : List HostAccess), s.pending = .reset :: rest →
        step s = .next { State.reset with params := s.params, pending := rest, readData := s.readData }

/-- R315, R317, R324: the machine never stops, and with no access to come it is idle. That an idle step answers the
same state is the model's (notes/assumptions/2.md). -/
def Obligations.MachineNeverStops : Prop :=
  (∀ s : State, ∃ t, step s = .next t) ∧ (∀ (i : Instr) (s : State), ∃ t, exec i s = .next t)
    ∧ ∀ s : State, s.pending = [] → step s = .next s

/-! ### Invariants and rules over all commands -/

/-- R38, R6: the reset state meets the invariant, whatever the build's open parameters are. -/
def Obligations.ResetMeetsStateInvariant : Prop := State.reset.Inv

/-- R25, R28, R29, R33, R34, R35: every step keeps the invariant: canonical buffers within their sizes, the FIFO
within FIFO_CAP, BV within BV_MAX, the rate registers in agreement with CFG_OK, a legal STATUS, OUT entries that are
symbols, and lawful parameters. -/
def Obligations.StepKeepsStateInvariant : Prop :=
  ∀ s t : State, s.Inv → step s = .next t → t.Inv

/-- R343: no step changes a parameter or a constant table. -/
def Obligations.ParametersNeverChange : Prop :=
  ∀ s t : State, step s = .next t → t.params = s.params

/-- R314: a command that raises an error changes no state but STATUS; a failing SETRATE also clears BAUD, SYMRATE,
REPEAT and CFG_OK. -/
def Obligations.FailingCommandChangesOnlyStatus : Prop :=
  ∀ (i : Instr) (s t : State), exec i s = .next t → t.result ≠ 0 →
    t = State.reportError
      (if i = .setrate then { s with baud := 0, symrate := 0, repeatCount := 0, cfgOk := false } else s)
      t.result t.detail (opcode i)

/-- R26: every command writes RESULT, DETAIL and LAST_OP, sets STICKY_ERR when RESULT is not OK and else leaves it,
and only SETRATE writes CFG_OK; no host access but a CMD write or a reset writes any of them. -/
def Obligations.EveryCommandReportsInStatus : Prop :=
  (∀ (i : Instr) (s : State), ∃ t, exec i s = .next t ∧ t.lastOp = opcode i ∧ (t.result, t.detail) ∈ reportCodes
      ∧ t.stickyErr = (s.stickyErr || t.result != 0) ∧ (i ≠ .setrate → t.cfgOk = s.cfgOk))
    ∧ ∀ s t : State, step s = .next t → (∀ c rest, s.pending ≠ .write 0x0000#16 c :: rest) →
        (∀ rest, s.pending ≠ .reset :: rest) →
        t.result = s.result ∧ t.detail = s.detail ∧ t.lastOp = s.lastOp ∧ t.cfgOk = s.cfgOk
          ∧ t.stickyErr = s.stickyErr

/-- R325: with CFG_OK = 0 each of the ten FIFO-appending commands raises CONFIGURATION(NOT_CONFIGURED), before any
other check, and no other command raises it. -/
def Obligations.OnlyAppendersNeedConfiguration : Prop :=
  ∀ (i : Instr) (s : State), s.cfgOk = false →
    (i ∈ cfgGated → exec i s = .next (s.reportError 3 1 (opcode i)))
    ∧ (i ∉ cfgGated → ∀ t, exec i s = .next t → ¬(t.result = 3 ∧ t.detail = 1))

/-- R35, R160, R165: a FIFO-appending command either fails and leaves the FIFO, or completes and adds to its tail
within FIFO_CAP; POP removes from its head; every other command leaves it. -/
def Obligations.FifoChangesOnlyAtItsEnds : Prop :=
  ∀ (i : Instr) (s t : State), exec i s = .next t →
    (i ∈ cfgGated → (t.result ≠ 0 ∧ t.fifo = s.fifo)
        ∨ (t.result = 0 ∧ ∃ x, t.fifo = s.fifo ++ x ∧ s.fifo.length + x.length ≤ s.params.fifoCap))
    ∧ (i = .pop → t.fifo = s.fifo.drop (min (min s.op[0].toNat s.fifo.length) 1024))
    ∧ (i ∉ cfgGated → i ≠ .pop → t.fifo = s.fifo)

/-- R350: over any run without a reset, what the FIFO holds is a suffix of what it held and what the run's steps
appended, in order: nothing is reordered, altered or inserted. -/
def Obligations.FifoHoldsSuffixOfAppends : Prop :=
  ∀ (k : Nat) (s t : State), HostAccess.reset ∉ s.pending → Host.Core.run Sys2Proof.core k s = .next t →
    t.fifo <:+ s.fifo ++ appendHistory k s

/-- R22, R23, R26, R27, R28, R30 to R35, R85, R348: which state a command may write. No command writes an operand
register, the message buffer, the capcode list or a parameter; RES[3] is written by none, RES[2] by GPID and GADDR
only, RES[1] by the commands whose rules name it only, and SETRATE and SETPOL write no RES; only SETPOL writes POL_INV,
only SETRATE the rates and CFG_OK, only POP writes OUT, only BVLIT writes BV, only POP and the FIFO-appending commands
change the FIFO; only the five word builders write WB_LEN and WB from index 1 on, FXASUM and FXNSUM write WB[0] beside
them, and a builder leaves every word from its own count on. (RESULT, DETAIL, LAST_OP and STICKY_ERR are every command's:
EveryCommandReportsInStatus.) -/
def Obligations.CommandsWriteOnlyTheirState : Prop :=
  ∀ (i : Instr) (s t : State), exec i s = .next t →
    t.op = s.op ∧ t.msg = s.msg ∧ t.msgLen = s.msgLen ∧ t.cap = s.cap ∧ t.capCount = s.capCount
      ∧ t.params = s.params ∧ t.pending = s.pending ∧ t.readData = s.readData
      ∧ t.res[3] = s.res[3] ∧ (i ≠ .gpid → i ≠ .gaddr → t.res[2] = s.res[2])
      ∧ (i ∉ secondResultWriters → t.res[1] = s.res[1]) ∧ (i = .setrate ∨ i = .setpol → t.res = s.res)
      ∧ (i ≠ .setpol → t.polInv = s.polInv)
      ∧ (i ≠ .setrate → t.baud = s.baud ∧ t.symrate = s.symrate ∧ t.repeatCount = s.repeatCount ∧ t.cfgOk = s.cfgOk)
      ∧ (i ≠ .pop → t.out = s.out) ∧ (i ≠ .bvlit → t.bv = s.bv) ∧ (i ∉ cfgGated → i ≠ .pop → t.fifo = s.fifo)
      ∧ (i ∉ wordBuilders → t.wbLen = s.wbLen
        ∧ ∀ k, (k ≠ 0 ∨ (i ≠ .fxasum ∧ i ≠ .fxnsum)) → Memory.read t.wb k = Memory.read s.wb k)
      ∧ (i ∈ wordBuilders → t.result = 0 → ∀ k, t.wbLen.toNat ≤ k → Memory.read t.wb k = Memory.read s.wb k)

/-- R32, R348: a frame sequencer neither reads nor writes the word buffer: with any other WB and WB_LEN it does the
same. -/
def Obligations.SequencersIgnoreWordBuffer : Prop :=
  ∀ (i : Instr), i ∈ frameSequencers → ∀ (s t : State) (m : Memory 32) (n : Word), exec i s = .next t →
    exec i { s with wb := m, wbLen := n } = .next { t with wb := m, wbLen := n }

/-! ### Configuration and primitives -/

/-- R100: SETRATE with non-zero rates, the second a multiple of the first, sets BAUD, SYMRATE, REPEAT and CFG_OK;
with a zero rate it raises CONFIGURATION(ZERO_RATE), with a rate that is no multiple CONFIGURATION(RATE_NOT_MULTIPLE),
and each failure clears the four. -/
def Obligations.SetrateSetsOrClearsRates : Prop :=
  ∀ s : State,
    (s.op[0] ≠ 0 → s.op[1] ≠ 0 → s.op[1].toNat % s.op[0].toNat = 0 →
      exec .setrate s = .next (State.reportOk { s with
        baud := s.op[0], symrate := s.op[1],
        repeatCount := BitVec.ofNat 32 (s.op[1].toNat / s.op[0].toNat), cfgOk := true } 0x01))
    ∧ (s.op[0] = 0 ∨ s.op[1] = 0 → exec .setrate s = .next (State.reportError
        { s with baud := 0, symrate := 0, repeatCount := 0, cfgOk := false } 3 3 0x01))
    ∧ (s.op[0] ≠ 0 → s.op[1] ≠ 0 → s.op[1].toNat % s.op[0].toNat ≠ 0 →
      exec .setrate s = .next (State.reportError
        { s with baud := 0, symrate := 0, repeatCount := 0, cfgOk := false } 3 2 0x01))

/-- R101: SETPOL sets POL_INV to bit 0 of OP[0]. -/
def Obligations.SetpolSetsPolarity : Prop :=
  ∀ s : State, exec .setpol s = .next (State.reportOk { s with polInv := s.op[0].getLsbD 0 } 0x02)

/-- R102: REV32 puts bit `i` of OP[0] at bit `31 - i` of RES[0], and the reversal is an involution. -/
def Obligations.Rev32ReversesBits : Prop :=
  (∀ s : State, ∃ w : Word, exec .rev32 s = .next (State.reportOk { s with res := s.res.set 0 w } 0x10)
    ∧ ∀ i < 32, w.getLsbD (31 - i) = s.op[0].getLsbD i)
  ∧ ∀ x : Word, rev32 (rev32 x) = x

/-- R103: EPAR answers 1 when the number of ones of OP[0] is odd, else 0. -/
def Obligations.EparCountsOnes : Prop :=
  ∀ s : State, exec .epar s = .next (State.reportOk { s with
    res := s.res.set 0
      (if ((Finset.univ : Finset (Fin 32)).filter fun k => s.op[0].getLsbD k.val = true).card % 2 = 1 then 1 else 0) }
    0x11)

/-- R104: BCH31 always completes; its result has the top 21 bits of OP[0], is a multiple of the generator in bits
[31:1], and has even parity. The generator 0x769 is the spec's own supply, "[from general knowledge, not in source]"
(R104). -/
def Obligations.Bch31IsSystematicCodeword : Prop :=
  ∀ s : State, ∃ w : Word, exec .bch31 s = .next (State.reportOk { s with res := s.res.set 0 w } 0x12)
    ∧ w.extractLsb' 11 21 = s.op[0].extractLsb' 11 21 ∧ IsPagingCodeword w

/-- R105: GOLAY answers in RES[0] a multiple of the generator with OP[0][11:0] in bits [22:11], and in RES[1] its
parity bits [10:0]. -/
def Obligations.GolayIsSystematicCodeword : Prop :=
  ∀ s : State, s.params.golayPolyOk = true → ∃ g : BitVec 23,
    exec .golay s = .next (State.reportOk { s with
      res := (s.res.set 0 (g.setWidth 32)).set 1 ((g.extractLsb' 0 11).setWidth 32) } 0x13)
    ∧ g.extractLsb' 11 12 = s.op[0].extractLsb' 0 12 ∧ polymod g (s.params.golayPoly.setWidth 23) 11 = 0

/-- R105, R270: for both generators the complement of a codeword is the codeword of the complemented dataword. -/
def Obligations.GolayComplementIsCodeword : Prop :=
  ∀ poly : BitVec 12, poly = 0xC75#12 ∨ poly = 0xAE3#12 → ∀ d : BitVec 12,
    golay poly (~~~d) = golayComplement (golay poly d)

/-- R106: BCH15 answers in RES[0] the multiple of 0x1D1 with OP[0][6:0] in bits [14:8], and in RES[1] its parity bits
[7:0]. Reading the generator string most significant coefficient first "is this spec's choice" (R106). -/
def Obligations.Bch15IsSystematicCodeword : Prop :=
  ∀ s : State, ∃ h : BitVec 15,
    exec .bch15 s = .next (State.reportOk { s with
      res := (s.res.set 0 (h.setWidth 32)).set 1 ((h.extractLsb' 0 8).setWidth 32) } 0x14)
    ∧ IsGscCodeword h (s.op[0].extractLsb' 0 7)

/-- R107: BVLIT of '0', '1' and spaces puts the digits in BV and their number in RES[0]; any other character raises
INVALID_FORMAT, and a length of 0 or above MSG_MAX raises INPUT_VALIDATION(LENGTH). -/
def Obligations.BvlitBuildsBitVector : Prop :=
  ∀ (s : State) (m : List Byte), m = Memory.readList s.msg s.msgLen.toNat →
    (1 ≤ s.msgLen.toNat → s.msgLen.toNat ≤ 256 → (∀ c ∈ m, c = 0x30#8 ∨ c = 0x31#8 ∨ c = 0x20#8) →
      exec .bvlit s = .next (State.reportOk { s with
        bv := (m.filter fun c => c != 0x20#8).map fun c => c == 0x31#8,
        res := s.res.set 0 (BitVec.ofNat 32 (m.filter fun c => c != 0x20#8).length) } 0x15))
    ∧ (1 ≤ s.msgLen.toNat → s.msgLen.toNat ≤ 256 → (∃ c ∈ m, c ≠ 0x30#8 ∧ c ≠ 0x31#8 ∧ c ≠ 0x20#8) →
      exec .bvlit s = .next (s.reportError 2 0 0x15))
    ∧ (s.msgLen.toNat = 0 ∨ 256 < s.msgLen.toNat → exec .bvlit s = .next (s.reportError 1 2 0x15))

/-! ### Checksums -/

/-- R140: FXCSUM keeps bits [20:4] of OP[0], clears bits [31:21], and sets the nibble that makes the word checksum
right. That the input's low nibble is cleared "is this spec's choice" (R140). -/
def Obligations.FxcsumCompletesWordChecksum : Prop :=
  ∀ s : State, ∃ d : Word, exec .fxcsum s = .next (State.reportOk { s with res := s.res.set 0 d } 0x20)
    ∧ d.extractLsb' 4 17 = s.op[0].extractLsb' 4 17 ∧ HasFlexWordChecksum d

/-- R141, R142: FXASUM puts in WB[0][9:0] and RES[0] the checksum that makes the 21-bit words of the buffer add up
to 1023 modulo 1024, keeps WB[0][31:10] and every other word, and running it again changes no word; an empty or
oversize buffer raises INPUT_VALIDATION(LENGTH). -/
def Obligations.FxasumCompletesMessageChecksum : Prop :=
  ∀ s : State,
    (1 ≤ s.wbLen.toNat → s.wbLen.toNat ≤ 128 → ∃ (k : BitVec 10) (t : State), exec .fxasum s = .next t
      ∧ t = State.reportOk { s with wb := t.wb, res := s.res.set 0 (k.setWidth 32) } 0x21
      ∧ Memory.read t.wb 0 = (Memory.read s.wb 0 &&& 0xFFFFFC00#32) ||| k.setWidth 32
      ∧ (∀ j, j ≠ 0 → Memory.read t.wb j = Memory.read s.wb j)
      ∧ ((List.range s.wbLen.toNat).map fun j => (Memory.read t.wb j &&& 0x1FFFFF#32).toNat).sum % 1024 = 1023
      ∧ ∀ u, exec .fxasum t = .next u → ∀ j, Memory.read u.wb j = Memory.read t.wb j)
    ∧ (s.wbLen.toNat = 0 ∨ 128 < s.wbLen.toNat → exec .fxasum s = .next (s.reportError 1 2 0x21))

/-- R143, R144: FXNSUM answers in RES[0] the 6-bit checksum that, added to the 21-bit words with WB[0][1:0] cleared,
gives 63 modulo 64, puts its two most significant bits in WB[0][1:0], and keeps WB[0][31:2] and every other word; an
empty or oversize buffer raises INPUT_VALIDATION(LENGTH). That whole words are summed "is this spec's choice" (R143). -/
def Obligations.FxnsumCompletesMessageChecksum : Prop :=
  ∀ s : State,
    (1 ≤ s.wbLen.toNat → s.wbLen.toNat ≤ 128 → ∃ (k : BitVec 6) (t : State), exec .fxnsum s = .next t
      ∧ t = State.reportOk { s with wb := t.wb, res := s.res.set 0 (k.setWidth 32) } 0x22
      ∧ Memory.read t.wb 0 = (Memory.read s.wb 0 &&& 0xFFFFFFFC#32) ||| (k.extractLsb' 4 2).setWidth 32
      ∧ (∀ j, j ≠ 0 → Memory.read t.wb j = Memory.read s.wb j)
      ∧ ((Memory.read s.wb 0 &&& 0x1FFFFC#32).toNat
          + ((List.range (s.wbLen.toNat - 1)).map fun j => (Memory.read s.wb (j + 1) &&& 0x1FFFFF#32).toNat).sum
          + k.toNat) % 64 = 63)
    ∧ (s.wbLen.toNat = 0 ∨ 128 < s.wbLen.toNat → exec .fxnsum s = .next (s.reportError 1 2 0x22))

/-- R145, R146: GSCSUM answers the sum of the low seven bits of WB[0..6] modulo 128, whatever WB_LEN is. -/
def Obligations.GscsumAddsSevenUnits : Prop :=
  ∀ s : State, exec .gscsum s = .next (State.reportOk { s with
    res := s.res.set 0
      (BitVec.ofNat 32 (((List.range 7).map fun k => (Memory.read s.wb k).toNat % 128).sum % 128)) } 0x23)

/-! ### The FIFO -/

/-- R162: PUSHBIT, configured and with REPEAT symbols free, appends bit 0 of OP[0] REPEAT times and answers REPEAT;
with fewer free it raises QUEUE_OVERFLOW. -/
def Obligations.PushbitAppendsRepeatedBit : Prop :=
  ∀ s : State, s.cfgOk = true →
    (s.fifo.length + s.repeatCount.toNat ≤ s.params.fifoCap →
      exec .pushbit s = .next (State.reportOk { s with
        fifo := s.fifo ++ List.replicate s.repeatCount.toNat (s.op[0].getLsbD 0),
        res := s.res.set 0 s.repeatCount } 0x30))
    ∧ (s.params.fifoCap < s.fifo.length + s.repeatCount.toNat → exec .pushbit s = .next (s.reportError 6 0 0x30))

/-- R163: PUSHRAW appends the first OP[0] bits of the message bytes, bit 7 of each first, unrepeated, and answers
their number; a count of 0 or above 8·MSG_LEN, or MSG_LEN above MSG_MAX, raises INPUT_VALIDATION(LENGTH), and too
little room QUEUE_OVERFLOW. The bit order within a byte "is this spec's choice" (R163). -/
def Obligations.PushrawAppendsMessageBits : Prop :=
  ∀ s : State, s.cfgOk = true →
    (s.msgLen.toNat ≤ 256 → 1 ≤ s.op[0].toNat → s.op[0].toNat ≤ 8 * s.msgLen.toNat →
      s.fifo.length + s.op[0].toNat ≤ s.params.fifoCap → ∃ x : List Bool,
        exec .pushraw s = .next (State.reportOk { s with fifo := s.fifo ++ x, res := s.res.set 0 s.op[0] } 0x31)
        ∧ x.length = s.op[0].toNat
        ∧ ∀ i < s.op[0].toNat, x[i]? = some ((Memory.read s.msg (i / 8)).getLsbD (7 - i % 8)))
    ∧ (256 < s.msgLen.toNat ∨ s.op[0].toNat = 0 ∨ 8 * s.msgLen.toNat < s.op[0].toNat →
      exec .pushraw s = .next (s.reportError 1 2 0x31))
    ∧ (s.msgLen.toNat ≤ 256 → 1 ≤ s.op[0].toNat → s.op[0].toNat ≤ 8 * s.msgLen.toNat →
      s.params.fifoCap < s.fifo.length + s.op[0].toNat → exec .pushraw s = .next (s.reportError 6 0 0x31))

/-- R160, R164: PUSHBV appends each bit of BV REPEAT times, in order, leaves BV, and answers the number of symbols (free
when no register can hold it: the model's choice, notes/assumptions/3.md); too little room raises QUEUE_OVERFLOW. -/
def Obligations.PushbvAppendsRepeatedVector : Prop :=
  ∀ s : State, s.cfgOk = true →
    (s.fifo.length + s.bv.length * s.repeatCount.toNat ≤ s.params.fifoCap → ∃ x : List Bool,
      exec .pushbv s = .next (State.reportOk { s with
        fifo := s.fifo ++ x,
        res := s.res.set 0 (countWord (s.bv.length * s.repeatCount.toNat)) } 0x32)
      ∧ x.length = s.bv.length * s.repeatCount.toNat
      ∧ ∀ i < x.length, x[i]? = s.bv[i / s.repeatCount.toNat]?)
    ∧ (s.params.fifoCap < s.fifo.length + s.bv.length * s.repeatCount.toNat →
      exec .pushbv s = .next (s.reportError 6 0 0x32))

/-- R165, R168: POP always completes: it takes the least of OP[0], the FIFO's depth and POP_MAX symbols off the head,
writes each to OUT as +1 or -1 by its bit and POL_INV, leaves the later entries of OUT, and answers the number. -/
def Obligations.PopDrainsOldestSymbols : Prop :=
  ∀ (s : State) (n : Nat), n = min (min s.op[0].toNat s.fifo.length) 1024 →
    ∃ t : State, exec .pop s = .next t
      ∧ t = State.reportOk { s with out := t.out, fifo := s.fifo.drop n, res := s.res.set 0 (BitVec.ofNat 32 n) } 0x33
      ∧ ∀ k, Memory.read t.out k
          = if k < n then (if s.fifo.getD k false ≠ s.polInv then 0x00000001#32 else 0xFFFFFFFF#32)
            else Memory.read s.out k

/-- R166, R167: DEPTH answers what the FIFO_DEPTH register reads, the number of symbols held while a register can
hold it; EMPTY answers 1 exactly when the FIFO is empty, as STATUS bit 17 reads. -/
def Obligations.DepthAndEmptyReportFifo : Prop :=
  ∀ s : State,
    (exec .depth s = .next (State.reportOk { s with res := s.res.set 0 (s.memRead 0x0006#16) } 0x34)
      ∧ (s.fifo.length < 2 ^ 32 → s.memRead 0x0006#16 = BitVec.ofNat 32 s.fifo.length))
    ∧ exec .empty s = .next (State.reportOk { s with res := s.res.set 0 (if s.fifo = [] then 1 else 0) } 0x35)
    ∧ (s.memRead 0x0001#16).getLsbD 17 = decide (s.fifo = [])

/-- R169: with no append between them and `a + b` at most POP_MAX (1024), `POP a` then `POP b` writes to OUT the same
symbols in order as one `POP a+b`, and leaves the same FIFO. -/
def Obligations.SplitPopsDrainAlike : Prop :=
  ∀ (s t u v : State) (a b : Nat), a + b ≤ 1024 →
    exec .pop { s with op := s.op.set 0 (BitVec.ofNat 32 a) } = .next t →
    exec .pop { t with op := t.op.set 0 (BitVec.ofNat 32 b) } = .next u →
    exec .pop { s with op := s.op.set 0 (BitVec.ofNat 32 (a + b)) } = .next v →
      u.fifo = v.fifo ∧ t.res[0].toNat + u.res[0].toNat = v.res[0].toNat
      ∧ ∀ k < v.res[0].toNat, Memory.read v.out k
          = if k < t.res[0].toNat then Memory.read t.out k else Memory.read u.out (k - t.res[0].toNat)

/-! ### POCSAG -/

/-- R193: the ten digits, U, space, '-', ']' and '[' have the stated 4-bit codes in the numeric character map, and
every other byte is unmapped. The table is the spec's own supply, "[from general knowledge, not in source]" (R193). -/
def Obligations.NumericCharactersMapAsStated : Prop :=
  (∀ d < 10, numMap (BitVec.ofNat 8 (0x30 + d)) = some (BitVec.ofNat 4 d))
    ∧ numMap 0x55#8 = some 0xB#4 ∧ numMap 0x20#8 = some 0xC#4 ∧ numMap 0x2D#8 = some 0xD#4
    ∧ numMap 0x5D#8 = some 0xE#4 ∧ numMap 0x5B#8 = some 0xF#4
    ∧ ∀ c : Byte, numMap c = none ↔ ((c < 0x30#8 ∨ 0x39#8 < c) ∧ c ≠ 0x55#8 ∧ c ≠ 0x20#8 ∧ c ≠ 0x2D#8
        ∧ c ≠ 0x5D#8 ∧ c ≠ 0x5B#8)

/-- R191, R192: PADDR of a capcode of at most 21 bits answers its address word and its bits [2:0] as frame offset; a
larger capcode raises INPUT_VALIDATION(CAPCODE_RANGE). The generator of the word's check bits is the spec's own
supply, "[from general knowledge, not in source]" (R104). -/
def Obligations.PaddrFormsAddressWord : Prop :=
  ∀ s : State,
    (s.op[0].toNat ≤ 0x1FFFFF → ∃ aw : Word,
      exec .paddr s = .next (State.reportOk { s with
        res := (s.res.set 0 aw).set 1 ((s.op[0].extractLsb' 0 3).setWidth 32) } 0x40)
      ∧ IsPocsagAddress aw s.op[0] (s.op[1].extractLsb' 0 2))
    ∧ (0x1FFFFF < s.op[0].toNat → exec .paddr s = .next (s.reportError 1 1 0x40))

/-- R194, R195, R196: PMSGN of a message of mapped characters writes its `ceil(L/5)` numeric words to WB and leaves
the later words; a bad length or an unmapped character raises its error. That a code's bit 0 is sent first "is this
spec's reading" (R194); the character codes (R193) and the generator (R104) are the spec's own supply, "[from general
knowledge, not in source]". -/
def Obligations.PmsgnPacksNumericWords : Prop :=
  ∀ (s : State) (m : List Byte) (n : Nat), m = Memory.readList s.msg s.msgLen.toNat → n = (s.msgLen.toNat + 4) / 5 →
    (1 ≤ s.msgLen.toNat → s.msgLen.toNat ≤ 256 → ∀ ks : List (BitVec 4), m.map numMap = ks.map some →
      ∃ t : State, exec .pmsgn s = .next t
        ∧ t = State.reportOk { s with
            wb := t.wb, wbLen := BitVec.ofNat 32 n,
            res := s.res.set 0 (BitVec.ofNat 32 n) } 0x41
        ∧ (∀ j, n ≤ j → Memory.read t.wb j = Memory.read s.wb j)
        ∧ IsPocsagNumericMessage (Memory.read t.wb) n ks)
    ∧ (s.msgLen.toNat = 0 ∨ 256 < s.msgLen.toNat → exec .pmsgn s = .next (s.reportError 1 2 0x41))
    ∧ (1 ≤ s.msgLen.toNat → s.msgLen.toNat ≤ 256 → (∃ c ∈ m, numMap c = none) →
      exec .pmsgn s = .next (s.reportError 1 3 0x41))

/-- R195, R197: PMSGA of a message of 7-bit characters writes its `ceil(7(L+1)/20)` alphanumeric words to WB and
leaves the later words; a bad length or a character above 0x7F raises its error. The EOT byte 0x04 (R195) and the
generator (R104) are the spec's own supply, "[from general knowledge, not in source]". -/
def Obligations.PmsgaPacksAlphaWords : Prop :=
  ∀ (s : State) (m : List Byte) (n : Nat), m = Memory.readList s.msg s.msgLen.toNat →
    n = (7 * (s.msgLen.toNat + 1) + 19) / 20 →
    (1 ≤ s.msgLen.toNat → s.msgLen.toNat ≤ 256 → (∀ c ∈ m, c.toNat ≤ 0x7F) →
      ∃ t : State, exec .pmsga s = .next t
        ∧ t = State.reportOk { s with
            wb := t.wb, wbLen := BitVec.ofNat 32 n,
            res := s.res.set 0 (BitVec.ofNat 32 n) } 0x42
        ∧ (∀ j, n ≤ j → Memory.read t.wb j = Memory.read s.wb j)
        ∧ IsPocsagAlphaMessage (Memory.read t.wb) n m)
    ∧ (s.msgLen.toNat = 0 ∨ 256 < s.msgLen.toNat → exec .pmsga s = .next (s.reportError 1 2 0x42))
    ∧ (1 ≤ s.msgLen.toNat → s.msgLen.toNat ≤ 256 → (∃ c ∈ m, 0x7F < c.toNat) →
      exec .pmsga s = .next (s.reportError 1 3 0x42))

/-- R190, R198, R199, R200: TXPOCN, configured, with one capcode in range, a mapped message and room in the FIFO,
appends the page of the address with function bits 00 and the numeric words, each bit REPEAT times, and answers the
page's bits and symbols (a symbol count that no register can hold is free: the model's choice,
notes/assumptions/3.md). The preamble's first bit and the function bits 00 are each "this spec's choice" (R190, R200).
That a code's bit 0 is sent first "is this spec's reading" (R194); the character codes (R193) and the generator (R104)
are the spec's own supply, "[from general knowledge, not in source]". -/
def Obligations.TxpocnQueuesNumericPage : Prop :=
  ∀ (s : State) (m : List Byte) (ks : List (BitVec 4)) (off n b : Nat),
    m = Memory.readList s.msg s.msgLen.toNat → off = s.cap[0].toNat % 8 → n = (s.msgLen.toNat + 4) / 5 →
    b = (2 * off + n + 2 + 15) / 16 →
    s.cfgOk = true → s.capCount = 1 → s.cap[0].toNat ≤ 0x1FFFFF → 1 ≤ s.msgLen.toNat → s.msgLen.toNat ≤ 256 →
    m.map numMap = ks.map some →
    s.fifo.length + (576 + 544 * b) * s.repeatCount.toNat ≤ s.params.fifoCap →
    ∃ (x : List Bool) (aw : Word) (w : List Word),
      exec .txpocn s = .next (State.reportOk { s with
        fifo := s.fifo ++ repeatBits s.repeatCount.toNat x,
        res := (s.res.set 1 (countWord ((576 + 544 * b) * s.repeatCount.toNat))).set 0
          (BitVec.ofNat 32 (576 + 544 * b)) } 0x43)
      ∧ IsPocsagPage x b aw off w ∧ IsPocsagAddress aw s.cap[0] 0b00#2 ∧ w.length = n
      ∧ IsPocsagNumericMessage (w.getD · 0) n ks

/-- R190, R198, R199, R201: TXPOCA, configured, with one capcode in range, a message of 7-bit characters and room in
the FIFO, appends the page of the address with function bits 11 and the alphanumeric words, each bit REPEAT times, and
answers the page's bits and symbols (a symbol count that no register can hold is free: the model's choice,
notes/assumptions/3.md). The preamble's first bit "is this spec's choice" (R190). The EOT byte 0x04 (R195) and the
generator (R104) are the spec's own supply, "[from general knowledge, not in source]". -/
def Obligations.TxpocaQueuesAlphaPage : Prop :=
  ∀ (s : State) (m : List Byte) (off n b : Nat),
    m = Memory.readList s.msg s.msgLen.toNat → off = s.cap[0].toNat % 8 →
    n = (7 * (s.msgLen.toNat + 1) + 19) / 20 → b = (2 * off + n + 2 + 15) / 16 →
    s.cfgOk = true → s.capCount = 1 → s.cap[0].toNat ≤ 0x1FFFFF → 1 ≤ s.msgLen.toNat → s.msgLen.toNat ≤ 256 →
    (∀ c ∈ m, c.toNat ≤ 0x7F) →
    s.fifo.length + (576 + 544 * b) * s.repeatCount.toNat ≤ s.params.fifoCap →
    ∃ (x : List Bool) (aw : Word) (w : List Word),
      exec .txpoca s = .next (State.reportOk { s with
        fifo := s.fifo ++ repeatBits s.repeatCount.toNat x,
        res := (s.res.set 1 (countWord ((576 + 544 * b) * s.repeatCount.toNat))).set 0
          (BitVec.ofNat 32 (576 + 544 * b)) } 0x44)
      ∧ IsPocsagPage x b aw off w ∧ IsPocsagAddress aw s.cap[0] 0b11#2 ∧ w.length = n
      ∧ IsPocsagAlphaMessage (w.getD · 0) n m

/-- R202: the checks of TXPOCN and TXPOCA in their order, each raised when the ones before it pass and changing
nothing but STATUS. -/
def Obligations.PocsagChecksComeInOrder : Prop :=
  ∀ (i : Instr) (s : State) (m : List Byte) (n b : Nat), (i = .txpocn ∨ i = .txpoca) →
    m = Memory.readList s.msg s.msgLen.toNat →
    n = (if i = .txpocn then (s.msgLen.toNat + 4) / 5 else (7 * (s.msgLen.toNat + 1) + 19) / 20) →
    b = (2 * (s.cap[0].toNat % 8) + n + 2 + 15) / 16 →
    (s.cfgOk = false → exec i s = .next (s.reportError 3 1 (opcode i)))
    ∧ (s.cfgOk = true → s.capCount ≠ 1 → exec i s = .next (s.reportError 1 5 (opcode i)))
    ∧ (s.cfgOk = true → s.capCount = 1 → 0x1FFFFF < s.cap[0].toNat → exec i s = .next (s.reportError 1 1 (opcode i)))
    ∧ (s.cfgOk = true → s.capCount = 1 → s.cap[0].toNat ≤ 0x1FFFFF → s.msgLen.toNat = 0 ∨ 256 < s.msgLen.toNat →
        exec i s = .next (s.reportError 1 2 (opcode i)))
    ∧ (s.cfgOk = true → s.capCount = 1 → s.cap[0].toNat ≤ 0x1FFFFF → 1 ≤ s.msgLen.toNat → s.msgLen.toNat ≤ 256 →
        (∃ c ∈ m, if i = .txpocn then numMap c = none else 0x7F < c.toNat) →
        exec i s = .next (s.reportError 1 3 (opcode i)))
    ∧ (s.cfgOk = true → s.capCount = 1 → s.cap[0].toNat ≤ 0x1FFFFF → 1 ≤ s.msgLen.toNat → s.msgLen.toNat ≤ 256 →
        (∀ c ∈ m, if i = .txpocn then numMap c ≠ none else c.toNat ≤ 0x7F) →
        s.params.fifoCap < s.fifo.length + (576 + 544 * b) * s.repeatCount.toNat →
        exec i s = .next (s.reportError 6 0 (opcode i)))

/-! ### FLEX -/

/-- R220, R221, R222, R223: FCW answers the codeword of the 21-bit dataword of OP[0]; FSADDR does so for an address in
[32769, 1966080] and raises INPUT_VALIDATION(CAPCODE_RANGE) for any other. The generator of the check bits is the
spec's own supply, "[from general knowledge, not in source]" (R104). -/
def Obligations.FcwAndFsaddrFormCodewords : Prop :=
  ∀ s : State,
    (∃ w : Word, exec .fcw s = .next (State.reportOk { s with res := s.res.set 0 w } 0x51)
      ∧ CarriesDataword w s.op[0])
    ∧ (32769 ≤ s.op[0].toNat → s.op[0].toNat ≤ 1966080 → ∃ w : Word,
      exec .fsaddr s = .next (State.reportOk { s with res := s.res.set 0 w } 0x50) ∧ CarriesDataword w s.op[0])
    ∧ (s.op[0].toNat < 32769 ∨ 1966080 < s.op[0].toNat → exec .fsaddr s = .next (s.reportError 1 1 0x50))

/-- R224, R225, R226: FFIW and FBIW answer a checked dataword in RES[1] and its codeword in RES[0]; FBIW raises
INPUT_VALIDATION(FIELD_RANGE) for a vector start above 63. The field layout (R224, R225) and the generator (R104) are
the spec's own supply, "[from general knowledge, not in source]". -/
def Obligations.InfoWordsAreCheckedAndCoded : Prop :=
  ∀ s : State,
    (∃ d w : Word, exec .ffiw s = .next (State.reportOk { s with res := (s.res.set 1 d).set 0 w } 0x52)
      ∧ HasFlexWordChecksum d ∧ d.extractLsb' 4 17 = s.op[0].extractLsb' 4 17 ∧ CarriesDataword w d)
    ∧ (s.op[1].toNat ≤ 63 → ∃ d w : Word,
      exec .fbiw s = .next (State.reportOk { s with res := (s.res.set 1 d).set 0 w } 0x53)
      ∧ IsBlockInfoWord d s.op[0] s.op[1].toNat ∧ CarriesDataword w d)
    ∧ (63 < s.op[1].toNat → exec .fbiw s = .next (s.reportError 1 7 0x53))

/-- R227 to R230: FVECN and FVECA answer their checked vector dataword in RES[1] and its codeword in RES[0], and raise
INPUT_VALIDATION(FIELD_RANGE) for an operand out of its range. The field layout (R227, R229) and the generator (R104)
are the spec's own supply, "[from general knowledge, not in source]". -/
def Obligations.VectorWordsAreCheckedAndCoded : Prop :=
  ∀ s : State,
    (s.op[0].toNat ≤ 127 → 1 ≤ s.op[1].toNat → s.op[1].toNat ≤ 8 → s.op[2].toNat ≤ 63 → ∃ d w : Word,
      exec .fvecn s = .next (State.reportOk { s with res := (s.res.set 1 d).set 0 w } 0x54)
      ∧ IsNumericVector d s.op[0].toNat s.op[1].toNat (s.op[2].extractLsb' 0 6) ∧ CarriesDataword w d)
    ∧ (127 < s.op[0].toNat ∨ s.op[1].toNat = 0 ∨ 8 < s.op[1].toNat ∨ 63 < s.op[2].toNat →
      exec .fvecn s = .next (s.reportError 1 7 0x54))
    ∧ (s.op[0].toNat ≤ 127 → 1 ≤ s.op[1].toNat → s.op[1].toNat ≤ 127 → ∃ d w : Word,
      exec .fveca s = .next (State.reportOk { s with res := (s.res.set 1 d).set 0 w } 0x55)
      ∧ IsAlphaVector d s.op[0].toNat s.op[1].toNat ∧ CarriesDataword w d)
    ∧ (127 < s.op[0].toNat ∨ s.op[1].toNat = 0 ∨ 127 < s.op[1].toNat →
      exec .fveca s = .next (s.reportError 1 7 0x55))

/-- R231, R232: FMSGN of at most 41 mapped characters writes its `ceil((2 + 4D)/21)` datawords to WB, leaves the later
words, and answers their number and the 6-bit checksum; a bad length or an unmapped character raises its error. The
fill code 0xC "is this spec's choice" (R231). The character codes are the spec's own supply, "[from general knowledge,
not in source]" (R193), and that whole words are summed "is this spec's choice" (R143). -/
def Obligations.FmsgnPacksNumericDatawords : Prop :=
  ∀ (s : State) (m : List Byte) (n : Nat), m = Memory.readList s.msg s.msgLen.toNat →
    n = (2 + 4 * s.msgLen.toNat + 20) / 21 →
    (1 ≤ s.msgLen.toNat → s.msgLen.toNat ≤ 41 → ∀ ks : List (BitVec 4), m.map numMap = ks.map some →
      ∃ (t : State) (k : BitVec 6), exec .fmsgn s = .next t
        ∧ t = State.reportOk { s with
            wb := t.wb, wbLen := BitVec.ofNat 32 n,
            res := (s.res.set 0 (BitVec.ofNat 32 n)).set 1 (k.setWidth 32) } 0x56
        ∧ (∀ j, n ≤ j → Memory.read t.wb j = Memory.read s.wb j)
        ∧ IsFlexNumericMessage (Memory.read t.wb) n ks k)
    ∧ (s.msgLen.toNat = 0 ∨ 41 < s.msgLen.toNat → exec .fmsgn s = .next (s.reportError 1 2 0x56))
    ∧ (1 ≤ s.msgLen.toNat → s.msgLen.toNat ≤ 41 → (∃ c ∈ m, numMap c = none) →
      exec .fmsgn s = .next (s.reportError 1 3 0x56))

/-- R233 to R236: FMSGA of at most 251 characters of 7 bits writes its datawords to WB, the least `W ≥ 2` of them with
`3W - 4 ≥ L`, leaves the later words, and answers their number and the 10-bit checksum; a bad length, a character
above 0x7F, or a message of 252 characters raises its error. The word layout and the ETX filler (R233) and the header
layout (R234) are the spec's own supply, "[from general knowledge, not in source]"; the signature's complement "is
this spec's choice" (R236). A build may substitute another function for the signature (notes/assumptions/4.md). -/
def Obligations.FmsgaPacksAlphaDatawords : Prop :=
  ∀ (s : State) (m : List Byte) (n : Nat), m = Memory.readList s.msg s.msgLen.toNat →
    n = max 2 ((s.msgLen.toNat + 4 + 2) / 3) →
    (1 ≤ s.msgLen.toNat → s.msgLen.toNat ≤ 251 → (∀ c ∈ m, c.toNat ≤ 0x7F) →
      ∃ (t : State) (k : BitVec 10), exec .fmsga s = .next t
        ∧ t = State.reportOk { s with
            wb := t.wb, wbLen := BitVec.ofNat 32 n,
            res := (s.res.set 0 (BitVec.ofNat 32 n)).set 1 (k.setWidth 32) } 0x57
        ∧ (∀ j, n ≤ j → Memory.read t.wb j = Memory.read s.wb j)
        ∧ IsFlexAlphaMessage s.params (Memory.read t.wb) n m s.op[0] k)
    ∧ (s.msgLen.toNat = 0 ∨ 252 < s.msgLen.toNat → exec .fmsga s = .next (s.reportError 1 2 0x57))
    ∧ (1 ≤ s.msgLen.toNat → s.msgLen.toNat ≤ 252 → (∃ c ∈ m, 0x7F < c.toNat) →
      exec .fmsga s = .next (s.reportError 1 3 0x57))
    ∧ (s.msgLen.toNat = 252 → (∀ c ∈ m, c.toNat ≤ 0x7F) → exec .fmsga s = .next (s.reportError 1 6 0x57))

/-- R237, R238: INTLV, configured, with WB_LEN 8 and room in the FIFO, appends bit 31 of WB[0..7] in turn, then bit
30, down to bit 0, each REPEAT times, and answers the number of symbols (free when no register can hold it: the model's
choice, notes/assumptions/3.md); another WB_LEN raises INVARIANT_VIOLATION(INTERLEAVE_COUNT), and too little room
QUEUE_OVERFLOW. -/
def Obligations.IntlvAppendsColumns : Prop :=
  ∀ s : State, s.cfgOk = true →
    (s.wbLen = 8 → s.fifo.length + 256 * s.repeatCount.toNat ≤ s.params.fifoCap → ∃ x : List Bool,
      exec .intlv s = .next (State.reportOk { s with
        fifo := s.fifo ++ repeatBits s.repeatCount.toNat x,
        res := s.res.set 0 (countWord (256 * s.repeatCount.toNat)) } 0x58)
      ∧ x.length = 256 ∧ ∀ i < 256, x[i]? = some ((Memory.read s.wb (i % 8)).getLsbD (31 - i / 8)))
    ∧ (s.wbLen ≠ 8 → exec .intlv s = .next (s.reportError 4 1 0x58))
    ∧ (s.wbLen = 8 → s.params.fifoCap < s.fifo.length + 256 * s.repeatCount.toNat →
      exec .intlv s = .next (s.reportError 6 0 0x58))

/-- R239 to R242: TXFLXN, configured, with 1 to 8 short addresses, at most 41 mapped characters and room in the FIFO,
appends the frame: the syncs and the frame info word of OP[0], then 88 interleaved codewords, Block Info Word 1 of
OP[1] with vector start N+1, the addresses, a numeric vector for each to word 2N+1, the message, and idle words. That
the frame words take the capcodes themselves is read from the worked example (notes/assumptions/5.md), and a symbol
count that no register can hold is free: the model's choice (notes/assumptions/3.md). The idle words' phase "is this
spec's choice" (R240). The fill code 0xC "is this spec's choice" (R231), as is the clearing of a control word's low
nibble (R140) and the summing of whole words (R143); the field layouts (R224, R225, R227), the character codes (R193)
and the generator (R104) are the spec's own supply, "[from general knowledge, not in source]". -/
def Obligations.TxflxnQueuesNumericFrame : Prop :=
  ∀ (s : State) (m : List Byte) (caps : List Word) (ks : List (BitVec 4)) (n len : Nat),
    m = Memory.readList s.msg s.msgLen.toNat → caps = s.cap.toList.take s.capCount.toNat →
    n = (2 + 4 * s.msgLen.toNat + 20) / 21 →
    len = s.params.flexSync1.length + 32 + s.params.flexSync2.length + 2816 →
    s.cfgOk = true → 1 ≤ s.capCount.toNat → s.capCount.toNat ≤ 8 →
    (∀ a ∈ caps, 32769 ≤ a.toNat ∧ a.toNat ≤ 1966080) → 1 ≤ s.msgLen.toNat → s.msgLen.toNat ≤ 41 →
    m.map numMap = ks.map some → s.fifo.length + len * s.repeatCount.toNat ≤ s.params.fifoCap →
    ∃ (x : List Bool) (f fiw biw vec : Word) (w : List Word) (k : BitVec 6) (word : Nat → Word),
      exec .txflxn s = .next (State.reportOk { s with
        fifo := s.fifo ++ repeatBits s.repeatCount.toNat x,
        res := (s.res.set 1 (countWord (len * s.repeatCount.toNat))).set 0 (countWord len) } 0x59)
      ∧ IsFlexTransmission x s.params fiw word ∧ CarriesDataword fiw f ∧ HasFlexWordChecksum f
      ∧ f.extractLsb' 4 17 = s.op[0].extractLsb' 4 17
      ∧ (∀ j < 88, CarriesDataword (word j) (flexFrameDataword caps w biw vec j))
      ∧ IsBlockInfoWord biw s.op[1] (caps.length + 1) ∧ IsNumericVector vec (2 * caps.length + 1) n k
      ∧ w.length = n ∧ IsFlexNumericMessage (w.getD · 0) n ks k

/-- R239 to R241, R243: TXFLXA, configured, with 1 to 8 short addresses, at most 252 characters of 7 bits whose words
fit the frame, and room in the FIFO, appends the frame: the syncs and the frame info word of OP[0], then 88
interleaved codewords, Block Info Word 1 of OP[1] with vector start N+1, the addresses, an alphanumeric vector for
each to word 2N+1, the message under the header template OP[2], and idle words. That the frame words take the capcodes
themselves is read from the worked example (notes/assumptions/5.md), and a symbol count that no register can hold is
free: the model's choice (notes/assumptions/3.md). The idle words' phase "is this spec's choice" (R240). The field
layouts (R224, R225, R229, R234), the word layout and the ETX filler (R233) and the generator (R104) are the spec's
own supply, "[from general knowledge, not in source]"; the clearing of a control word's low nibble "is this spec's
choice" (R140), and so is the signature's complement (R236), which a build may substitute by another function
(notes/assumptions/4.md). -/
def Obligations.TxflxaQueuesAlphaFrame : Prop :=
  ∀ (s : State) (m : List Byte) (caps : List Word) (n len : Nat),
    m = Memory.readList s.msg s.msgLen.toNat → caps = s.cap.toList.take s.capCount.toNat →
    n = max 2 ((s.msgLen.toNat + 4 + 2) / 3) →
    len = s.params.flexSync1.length + 32 + s.params.flexSync2.length + 2816 →
    s.cfgOk = true → 1 ≤ s.capCount.toNat → s.capCount.toNat ≤ 8 →
    (∀ a ∈ caps, 32769 ≤ a.toNat ∧ a.toNat ≤ 1966080) → 1 ≤ s.msgLen.toNat → s.msgLen.toNat ≤ 252 →
    (∀ c ∈ m, c.toNat ≤ 0x7F) → 1 + 2 * caps.length + n ≤ 88 →
    s.fifo.length + len * s.repeatCount.toNat ≤ s.params.fifoCap →
    ∃ (x : List Bool) (f fiw biw vec : Word) (w : List Word) (k : BitVec 10) (word : Nat → Word),
      exec .txflxa s = .next (State.reportOk { s with
        fifo := s.fifo ++ repeatBits s.repeatCount.toNat x,
        res := (s.res.set 1 (countWord (len * s.repeatCount.toNat))).set 0 (countWord len) } 0x5A)
      ∧ IsFlexTransmission x s.params fiw word ∧ CarriesDataword fiw f ∧ HasFlexWordChecksum f
      ∧ f.extractLsb' 4 17 = s.op[0].extractLsb' 4 17
      ∧ (∀ j < 88, CarriesDataword (word j) (flexFrameDataword caps w biw vec j))
      ∧ IsBlockInfoWord biw s.op[1] (caps.length + 1) ∧ IsAlphaVector vec (2 * caps.length + 1) n
      ∧ w.length = n ∧ IsFlexAlphaMessage s.params (w.getD · 0) n m s.op[2] k

/-- R244: the checks of TXFLXN and TXFLXA in their order, each raised when the ones before it pass and changing
nothing but STATUS. -/
def Obligations.FlexChecksComeInOrder : Prop :=
  ∀ (i : Instr) (s : State) (m : List Byte) (caps : List Word) (top n len : Nat), (i = .txflxn ∨ i = .txflxa) →
    m = Memory.readList s.msg s.msgLen.toNat → caps = s.cap.toList.take s.capCount.toNat →
    top = (if i = .txflxn then 41 else 252) →
    n = (if i = .txflxn then (2 + 4 * s.msgLen.toNat + 20) / 21 else max 2 ((s.msgLen.toNat + 4 + 2) / 3)) →
    len = s.params.flexSync1.length + 32 + s.params.flexSync2.length + 2816 →
    (s.cfgOk = false → exec i s = .next (s.reportError 3 1 (opcode i)))
    ∧ (s.cfgOk = true → s.capCount.toNat = 0 ∨ 8 < s.capCount.toNat →
        exec i s = .next (s.reportError 1 5 (opcode i)))
    ∧ (s.cfgOk = true → 1 ≤ s.capCount.toNat → s.capCount.toNat ≤ 8 →
        ((∃ a ∈ caps, a.toNat < 32769 ∨ 1966080 < a.toNat) → exec i s = .next (s.reportError 1 1 (opcode i)))
        ∧ ((∀ a ∈ caps, 32769 ≤ a.toNat ∧ a.toNat ≤ 1966080) →
          (s.msgLen.toNat = 0 ∨ top < s.msgLen.toNat → exec i s = .next (s.reportError 1 2 (opcode i)))
          ∧ (1 ≤ s.msgLen.toNat → s.msgLen.toNat ≤ top →
            ((∃ c ∈ m, if i = .txflxn then numMap c = none else 0x7F < c.toNat) →
              exec i s = .next (s.reportError 1 3 (opcode i)))
            ∧ ((∀ c ∈ m, if i = .txflxn then numMap c ≠ none else c.toNat ≤ 0x7F) →
              (88 < 1 + 2 * caps.length + n → exec i s = .next (s.reportError 1 6 (opcode i)))
              ∧ (1 + 2 * caps.length + n ≤ 88 →
                s.params.fifoCap < s.fifo.length + len * s.repeatCount.toNat →
                exec i s = .next (s.reportError 6 0 (opcode i)))))))

/-! ### GSC -/

/-- R271, R272, R273: GPID of a capcode of at most six digits whose last three are not illegal answers word1 = g1 g0,
word2 from the table, and the preamble index; a larger capcode raises INPUT_VALIDATION(CAPCODE_RANGE), an illegal
triple INPUT_VALIDATION(ILLEGAL_CODEWORD). That g1 g0 form word1 "is this spec's reading" (R271). -/
def Obligations.GpidDecomposesCapcode : Prop :=
  ∀ (s : State) (c : Nat) (t : Triple) (table : List Triple), c = s.op[0].toNat →
    t = (decimalDigit c 2, decimalDigit c 1, decimalDigit c 0) →
    table = (if c / 1000 % 100 < 50 then s.params.gscIllLo else s.params.gscIllHi) →
    (c ≤ 999999 → t ∉ table →
      exec .gpid s = .next (State.reportOk { s with
        res :=
        ((s.res.set 0 (BitVec.ofNat 32 (c / 1000 % 100))).set 1
          (BitVec.ofNat 32 (s.params.gscWord2.toList.getD (c % 1000) 0).val)).set 2
          (BitVec.ofNat 32 ((c / 100000 + c / 1000 % 10) % 10)) } 0x60))
    ∧ (999999 < c → exec .gpid s = .next (s.reportError 1 1 0x60))
    ∧ (c ≤ 999999 → t ∈ table → exec .gpid s = .next (s.reportError 1 4 0x60))

/-- R274, R275: GADDR answers the Golay codewords of the two address words, the first complemented for word1 of 50 and
above, the second for word2 below 50, and the preamble index; its errors are GPID's. That g1 g0 form word1 "is this
spec's reading" (R271). -/
def Obligations.GaddrFormsAddressWords : Prop :=
  ∀ (s : State) (c w1 w2 : Nat) (t : Triple) (table : List Triple) (g1 g2 : BitVec 23), c = s.op[0].toNat →
    w1 = c / 1000 % 100 → w2 = (s.params.gscWord2.toList.getD (c % 1000) 0).val →
    t = (decimalDigit c 2, decimalDigit c 1, decimalDigit c 0) →
    table = (if w1 < 50 then s.params.gscIllLo else s.params.gscIllHi) →
    g1 = golay s.params.golayPoly (s.params.gscWord.toList.getD (w1 % 50) 0) →
    g2 = golay s.params.golayPoly (s.params.gscWord.toList.getD (w2 % 50) 0) →
    (c ≤ 999999 → t ∉ table →
      exec .gaddr s = .next (State.reportOk { s with
        res :=
        ((s.res.set 0 ((if 50 ≤ w1 then g1 ^^^ 0x7FFFFF#23 else g1).setWidth 32)).set 1
          ((if w2 < 50 then g2 ^^^ 0x7FFFFF#23 else g2).setWidth 32)).set 2
          (BitVec.ofNat 32 ((c / 100000 + c / 1000 % 10) % 10)) } 0x61))
    ∧ (999999 < c → exec .gaddr s = .next (s.reportError 1 1 0x61))
    ∧ (c ≤ 999999 → t ∈ table → exec .gaddr s = .next (s.reportError 1 4 0x61))

/-- R276, R277: GBLK writes the codewords of the seven units and of their checksum to WB[0..7], leaves the later
words, sets WB_LEN to 8, and answers the checksum. Reading the BCH(15,7) generator string most significant coefficient
first "is this spec's choice" (R106). -/
def Obligations.GblkCodesSevenUnits : Prop :=
  ∀ (s : State) (cs : Nat), cs = ((List.range 7).map fun k => (Memory.read s.wb k).toNat % 128).sum % 128 →
    ∃ t : State, exec .gblk s = .next t
      ∧ t = State.reportOk { s with wb := t.wb, wbLen := 8, res := s.res.set 0 (BitVec.ofNat 32 cs) } 0x62
      ∧ (∀ j, 8 ≤ j → Memory.read t.wb j = Memory.read s.wb j)
      ∧ (∀ j < 7, ∃ h : BitVec 15, Memory.read t.wb j = h.setWidth 32
          ∧ IsGscCodeword h ((Memory.read s.wb j).extractLsb' 0 7))
      ∧ ∃ h : BitVec 15, Memory.read t.wb 7 = h.setWidth 32 ∧ IsGscCodeword h (BitVec.ofNat 7 cs)

/-- R278 to R284: TXGSCN and TXGSCA, configured, with one lawful capcode, a mapped message and room in the FIFO,
append the GSC page of the capcode's preamble and address words and the message's codes, filled with GSC_FILL to whole
blocks of seven, each bit REPEAT times, and answer the page's bits and symbols (a count that no register can hold is
free: the model's choice, notes/assumptions/3.md). That a preamble word's bits are each sent twice is the spec's own
reading of "Duplicated" (R280). Reading the BCH(15,7) generator string most significant coefficient first "is this
spec's choice" (R106), and that g1 g0 form word1 "is this spec's reading" (R271). -/
def Obligations.TxgscQueuesPage : Prop :=
  ∀ (i : Instr) (s : State) (m : List Byte) (ks : List (BitVec 7)) (table : List (Byte × BitVec 7))
    (c w1 w2 idx b len : Nat) (t : Triple) (g1 g2 : BitVec 23),
    (i = .txgscn ∧ table = s.params.gscNumMap) ∨ (i = .txgsca ∧ table = s.params.gscAlphaMap) →
    m = Memory.readList s.msg s.msgLen.toNat → c = s.cap[0].toNat → w1 = c / 1000 % 100 →
    w2 = (s.params.gscWord2.toList.getD (c % 1000) 0).val → idx = (c / 100000 + c / 1000 % 10) % 10 →
    t = (decimalDigit c 2, decimalDigit c 1, decimalDigit c 0) → b = (s.msgLen.toNat + 6) / 7 →
    len = s.params.gscCommaLead + 828 + 47 + 46 + 121 * b + s.params.gscCommaTrail →
    g1 = golay s.params.golayPoly (s.params.gscWord.toList.getD (w1 % 50) 0) →
    g2 = golay s.params.golayPoly (s.params.gscWord.toList.getD (w2 % 50) 0) →
    s.cfgOk = true → s.capCount = 1 → c ≤ 999999 →
    t ∉ (if w1 < 50 then s.params.gscIllLo else s.params.gscIllHi) → 1 ≤ s.msgLen.toNat → s.msgLen.toNat ≤ 256 →
    m.map (fun ch => (table.find? fun e => e.1 == ch).map (·.2)) = ks.map some →
    s.fifo.length + len * s.repeatCount.toNat ≤ s.params.fifoCap →
    ∃ x : List Bool,
      exec i s = .next (State.reportOk { s with
        fifo := s.fifo ++ repeatBits s.repeatCount.toNat x,
        res := (s.res.set 1 (countWord (len * s.repeatCount.toNat))).set 0 (countWord len) } (opcode i))
      ∧ IsGscTransmission x s.params (golay s.params.golayPoly (s.params.gscPreamble.toList.getD idx 0))
          (if 50 ≤ w1 then g1 ^^^ 0x7FFFFF#23 else g1) (if w2 < 50 then g2 ^^^ 0x7FFFFF#23 else g2) b
          (ks ++ List.replicate (7 * b - s.msgLen.toNat) s.params.gscFill)

/-- R285: the checks of TXGSCN and TXGSCA in their order, each raised when the ones before it pass and changing
nothing but STATUS. -/
def Obligations.GscChecksComeInOrder : Prop :=
  ∀ (i : Instr) (s : State) (m : List Byte) (table : List (Byte × BitVec 7)) (c len : Nat) (t : Triple)
    (illegal : List Triple),
    (i = .txgscn ∧ table = s.params.gscNumMap) ∨ (i = .txgsca ∧ table = s.params.gscAlphaMap) →
    m = Memory.readList s.msg s.msgLen.toNat → c = s.cap[0].toNat →
    t = (decimalDigit c 2, decimalDigit c 1, decimalDigit c 0) →
    illegal = (if c / 1000 % 100 < 50 then s.params.gscIllLo else s.params.gscIllHi) →
    len = s.params.gscCommaLead + 828 + 47 + 46 + 121 * ((s.msgLen.toNat + 6) / 7) + s.params.gscCommaTrail →
    (s.cfgOk = false → exec i s = .next (s.reportError 3 1 (opcode i)))
    ∧ (s.cfgOk = true → s.capCount ≠ 1 → exec i s = .next (s.reportError 1 5 (opcode i)))
    ∧ (s.cfgOk = true → s.capCount = 1 →
        (999999 < c → exec i s = .next (s.reportError 1 1 (opcode i)))
        ∧ (c ≤ 999999 → t ∈ illegal → exec i s = .next (s.reportError 1 4 (opcode i)))
        ∧ (c ≤ 999999 → t ∉ illegal →
          (s.msgLen.toNat = 0 ∨ 256 < s.msgLen.toNat → exec i s = .next (s.reportError 1 2 (opcode i)))
          ∧ (1 ≤ s.msgLen.toNat → s.msgLen.toNat ≤ 256 →
            ((∃ ch ∈ m, ch ∉ table.map (·.1)) → exec i s = .next (s.reportError 1 3 (opcode i)))
            ∧ ((∀ ch ∈ m, ch ∈ table.map (·.1)) →
              s.params.fifoCap < s.fifo.length + len * s.repeatCount.toNat →
              exec i s = .next (s.reportError 6 0 (opcode i))))))
end

