-- ==== Sys2Proof/Laws/Bits.lean ====
section
/-! SUPPORT. The lengths and the single bits of the sequences and fields of Machine/Bits.lean, and the remainder
laws of Machine/Codes.lean. -/

namespace Sys2Proof.Machine

@[simp] theorem bitsMsb_length {n : Nat} (v : BitVec n) : (bitsMsb v).length = n := by simp [bitsMsb]

@[simp] theorem bitsLsb_length {n : Nat} (v : BitVec n) : (bitsLsb v).length = n := by simp [bitsLsb]

@[simp] theorem bitsMsb_getElem {n : Nat} (v : BitVec n) (i : Nat) (h : i < (bitsMsb v).length) :
    (bitsMsb v)[i] = v.getLsbD (n - 1 - i) := by simp [bitsMsb]

@[simp] theorem bitsLsb_getElem {n : Nat} (v : BitVec n) (i : Nat) (h : i < (bitsLsb v).length) :
    (bitsLsb v)[i] = v.getLsbD i := by simp [bitsLsb]

/-- Bit `t` of the number of a bit list is its entry `t`. -/
theorem natOfBits_testBit (s : List Bool) (t : Nat) : (natOfBits s).testBit t = s.getD t false := by
  induction s generalizing t with
  | nil => simp [natOfBits]
  | cons b s ih =>
    cases t with
    | zero => cases b <;> simp [natOfBits, Nat.testBit_zero]
    | succ t =>
      have : (b.toNat + 2 * natOfBits s) / 2 = natOfBits s := by
        cases b <;> (simp; try omega)
      simp only [natOfBits, Nat.testBit_succ, this, ih, List.getD_cons_succ]

/-- Bit `t` of `ofBitsLsb n s` is `s[t]`. -/
theorem ofBitsLsb_getLsbD (n : Nat) (s : List Bool) (t : Nat) :
    (ofBitsLsb n s).getLsbD t = (decide (t < n) && s.getD t false) := by
  simp [ofBitsLsb, BitVec.getLsbD_ofNat, natOfBits_testBit]

theorem fillTo_length (n : Nat) (f : Nat → Bool) (s : List Bool) : (fillTo n f s).length = max s.length n := by
  simp [fillTo]; omega

theorem chunk_length {α : Type} (n j : Nat) (s : List α) (h : n * j + n ≤ s.length) : (chunk n j s).length = n := by
  simp [chunk]; omega

/-- Entry `i` of run `j`. -/
theorem chunk_getElem? {α : Type} (n j : Nat) (s : List α) (i : Nat) (h : i < n) :
    (chunk n j s)[i]? = s[n * j + i]? := by
  simp [chunk, h]

/-- `rev32` moves bit `i` to bit `31 - i`. -/
theorem rev32_getLsbD (x : Word) (i : Nat) (h : i < 32) : (rev32 x).getLsbD (31 - i) = x.getLsbD i := by
  have h' : 31 - i < 32 := by omega
  rw [rev32, ofBitsLsb_getLsbD]
  have : 31 - (31 - i) = i := by omega
  simp [bitsMsb, h', this]

/-! ### The polynomial remainder -/

/-- The division steps are additive. -/
theorem polymodSteps_xor {n : Nat} (g : BitVec n) (k m : Nat) (u v : BitVec n) :
    polymodSteps g k m (u ^^^ v) = polymodSteps g k m u ^^^ polymodSteps g k m v := by
  induction m generalizing u v with
  | zero => rfl
  | succ m ih =>
    simp only [polymodSteps, BitVec.getLsbD_xor]
    rw [← ih]
    congr 1
    cases u.getLsbD (k + m) <;> cases v.getLsbD (k + m) <;> simp
    · ac_rfl
    · ac_rfl
    · rw [show u ^^^ g <<< m ^^^ (v ^^^ g <<< m) = (u ^^^ v) ^^^ (g <<< m ^^^ g <<< m) by ac_rfl]; simp

/-- `polymod` is additive. -/
theorem polymod_xor {n : Nat} (u v g : BitVec n) (k : Nat) :
    polymod (u ^^^ v) g k = polymod u g k ^^^ polymod v g k :=
  polymodSteps_xor g k (n - k) u v

/-- A division by a polynomial of degree `k` clears the bits it runs over. -/
theorem polymodSteps_clears {n : Nat} (g : BitVec n) (k m : Nat) (v : BitVec n) (hg : g.getLsbD k = true)
    (hdeg : ∀ i, k < i → g.getLsbD i = false) (hm : k + m ≤ n) (hv : ∀ i, k + m ≤ i → v.getLsbD i = false) :
    ∀ i, k ≤ i → (polymodSteps g k m v).getLsbD i = false := by
  induction m generalizing v with
  | zero => exact hv
  | succ m ih =>
    simp only [polymodSteps]
    apply ih _ (by omega)
    intro i hi
    rcases Nat.eq_or_lt_of_le hi with rfl | hlt
    · split
      · rename_i hb
        have hlt : k + m < n := by omega
        rw [BitVec.getLsbD_xor, hb, BitVec.getLsbD_shiftLeft, Nat.add_sub_cancel, hg]
        simp [hlt]
      · rename_i hb; simpa using hb
    · have h1 : v.getLsbD i = false := hv i (by omega)
      split
      · have h2 : g.getLsbD (i - m) = false := hdeg _ (by omega)
        simp [BitVec.getLsbD_xor, h1, BitVec.getLsbD_shiftLeft, h2]
      · exact h1

/-- A remainder by a polynomial of degree `k` has no bit from `k` up. -/
theorem polymod_getLsbD {n : Nat} (v g : BitVec n) (k : Nat) (hk : k ≤ n) (hg : g.getLsbD k = true)
    (hdeg : ∀ i, k < i → g.getLsbD i = false) (i : Nat) (hi : k ≤ i) : (polymod v g k).getLsbD i = false :=
  polymodSteps_clears g k (n - k) v hg hdeg (by omega) (fun j hj => BitVec.getLsbD_of_ge v j (by omega)) i hi

/-- A value with no bit from `k` up is its own remainder. -/
theorem polymodSteps_of_small {n : Nat} (g : BitVec n) (k m : Nat) (v : BitVec n)
    (hv : ∀ i, k ≤ i → v.getLsbD i = false) : polymodSteps g k m v = v := by
  induction m with
  | zero => rfl
  | succ m ih => simp only [polymodSteps, hv (k + m) (by omega)]; exact ih

/-- A remainder is its own remainder. -/
theorem polymod_polymod {n : Nat} (v g : BitVec n) (k : Nat) (hk : k ≤ n) (hg : g.getLsbD k = true)
    (hdeg : ∀ i, k < i → g.getLsbD i = false) : polymod (polymod v g k) g k = polymod v g k :=
  polymodSteps_of_small g k (n - k) _ (polymod_getLsbD v g k hk hg hdeg)

end Sys2Proof.Machine
end

