-- ==== Sys2Proof/Laws/Memory.lean ====
section
/-! SUPPORT. The laws of the buffers: a read after a write, every operation keeps the canonical form, and two
canonical buffers that read alike are equal. -/

namespace Sys2Proof.Machine

variable {w : Nat}

@[simp] theorem Memory.read_nil (a : Nat) : Memory.read ([] : Memory w) a = 0 := rfl

theorem Memory.read_cons (k : Nat) (v : BitVec w) (m : Memory w) (a : Nat) :
    Memory.read ((k, v) :: m) a = if k = a then v else Memory.read m a := rfl

/-- An index no pair lists reads as blank. -/
theorem Memory.read_eq_zero (m : Memory w) (a : Nat) (h : ∀ c ∈ m, c.1 ≠ a) : Memory.read m a = 0 := by
  induction m with
  | nil => rfl
  | cons c m ih =>
    obtain ⟨k, v⟩ := c
    rw [Memory.read_cons, if_neg (h (k, v) (by simp))]
    exact ih fun c hc => h c (by simp [hc])

/-- Reading an append: the first part decides where it lists the index. -/
theorem Memory.read_append (m n : Memory w) (a : Nat) (h : ∀ c ∈ n, c.1 ≠ a) :
    Memory.read (m ++ n) a = Memory.read m a := by
  induction m with
  | nil => simpa using Memory.read_eq_zero n a h
  | cons c m ih =>
    obtain ⟨k, v⟩ := c
    simp only [List.cons_append, Memory.read_cons, ih]

theorem Memory.read_append_right (m n : Memory w) (a : Nat) (h : ∀ c ∈ m, c.1 ≠ a) :
    Memory.read (m ++ n) a = Memory.read n a := by
  induction m with
  | nil => rfl
  | cons c m ih =>
    obtain ⟨k, v⟩ := c
    rw [List.cons_append, Memory.read_cons, if_neg (h (k, v) (by simp))]
    exact ih fun c hc => h c (by simp [hc])

/-- A filter that keeps the index does not change what it reads as. -/
theorem Memory.read_filter (p : Nat → Bool) (m : Memory w) (a : Nat) (h : p a = true) :
    Memory.read (m.filter fun c => p c.1) a = Memory.read m a := by
  induction m with
  | nil => rfl
  | cons c m ih =>
    obtain ⟨k, v⟩ := c
    by_cases hk : k = a
    · subst hk; simp [h, Memory.read_cons]
    · by_cases hp : p k = true
      · simp [hp, Memory.read_cons, hk, ih]
      · simp [hp, Memory.read_cons, hk, ih]

theorem Memory.listed_keys (base : Nat) (vs : List (BitVec w)) :
    ∀ c ∈ Memory.listed base vs, base ≤ c.1 ∧ c.1 < base + vs.length := by
  induction vs generalizing base with
  | nil => simp [Memory.listed]
  | cons v vs ih =>
    intro c hc
    simp only [Memory.listed] at hc
    split at hc
    · have := ih (base + 1) c hc; simp only [List.length_cons]; omega
    · rcases List.mem_cons.mp hc with rfl | hc
      · simp
      · have := ih (base + 1) c hc; simp only [List.length_cons]; omega

theorem Memory.read_listed (base : Nat) (vs : List (BitVec w)) (i : Nat) (h : i < vs.length) :
    Memory.read (Memory.listed base vs) (base + i) = vs[i] := by
  induction vs generalizing base i with
  | nil => simp at h
  | cons v vs ih =>
    cases i with
    | zero =>
      simp only [Memory.listed]
      split
      · rename_i hv
        rw [Memory.read_eq_zero]
        · simp [hv, Memory.blank]
        · intro c hc; have := Memory.listed_keys _ _ c hc; omega
      · simp [Memory.read_cons]
    | succ i =>
      have hi : i < vs.length := by simpa using h
      have := ih (base + 1) i hi
      rw [show base + 1 + i = base + (i + 1) by omega] at this
      simp only [Memory.listed]
      split
      · simpa using this
      · rw [Memory.read_cons, if_neg (by omega)]; simpa using this

/-- The read-after-write law of a run of entries. -/
theorem Memory.read_writeList (m : Memory w) (base : Nat) (vs : List (BitVec w)) (a : Nat) :
    Memory.read (m.writeList base vs) a
      = if h : base ≤ a ∧ a < base + vs.length then vs[a - base] else Memory.read m a := by
  have hmid := Memory.listed_keys base vs
  have hlo : ∀ c ∈ m.filter (fun c => decide (c.1 < base)), c.1 < base := by simp
  have hhi : ∀ c ∈ m.filter (fun c => decide (base + vs.length ≤ c.1)), base + vs.length ≤ c.1 := by simp
  unfold Memory.writeList
  split
  · rename_i h
    rw [Memory.read_append _ _ _ fun c hc => by have := hhi c hc; omega,
      Memory.read_append_right _ _ _ fun c hc => by have := hlo c hc; omega]
    have := Memory.read_listed base vs (a - base) (by omega)
    rwa [show base + (a - base) = a by omega] at this
  · rename_i h
    by_cases ha : a < base
    · rw [Memory.read_append _ _ _ fun c hc => by have := hhi c hc; omega,
        Memory.read_append _ _ _ fun c hc => by have := hmid c hc; omega]
      exact Memory.read_filter (fun k => decide (k < base)) m a (by simpa using ha)
    · rw [List.append_assoc, Memory.read_append_right _ _ _ fun c hc => by have := hlo c hc; omega,
        Memory.read_append_right _ _ _ fun c hc => by have := hmid c hc; omega]
      exact Memory.read_filter (fun k => decide (base + vs.length ≤ k)) m a (by simp; omega)

/-- A read after a write: the written entry at its index, every other index as before. -/
theorem Memory.read_write (m : Memory w) (a b : Nat) (v : BitVec w) :
    Memory.read (m.write a v) b = if b = a then v else Memory.read m b := by
  unfold Memory.write
  rw [Memory.read_writeList]
  by_cases h : b = a
  · subst h; simp
  · have : ¬ (a ≤ b ∧ b < a + [v].length) := by simp; omega
    rw [dif_neg this, if_neg h]

@[simp] theorem Memory.readList_length (m : Memory w) (n : Nat) : (m.readList n).length = n := by
  simp [Memory.readList]

@[simp] theorem Memory.readList_getElem (m : Memory w) (n i : Nat) (h : i < (m.readList n).length) :
    (m.readList n)[i] = Memory.read m i := by
  simp [Memory.readList]

/-! ### The canonical form -/

/-- The canonical form as facts about the list. -/
theorem Memory.wfFrom_iff (size lo : Nat) (m : Memory w) :
    Memory.wfFrom size lo m = true
      ↔ (∀ c ∈ m, lo ≤ c.1 ∧ c.1 < size ∧ c.2 ≠ 0) ∧ m.Pairwise (fun c d => c.1 < d.1) := by
  induction m generalizing lo with
  | nil => simp [Memory.wfFrom]
  | cons c m ih =>
    obtain ⟨k, v⟩ := c
    simp only [Memory.wfFrom, Bool.and_eq_true, decide_eq_true_eq, Bool.not_eq_true', beq_eq_false_iff_ne, ih,
      List.mem_cons, forall_eq_or_imp, List.pairwise_cons]
    constructor
    · rintro ⟨⟨⟨h1, h2⟩, h3⟩, h4, h5⟩
      exact ⟨⟨⟨h1, h2, h3⟩, fun c hc => ⟨by have := (h4 c hc).1; omega, (h4 c hc).2⟩⟩,
        fun c hc => by have := (h4 c hc).1; omega, h5⟩
    · rintro ⟨⟨⟨h1, h2, h3⟩, h4⟩, h5, h6⟩
      exact ⟨⟨⟨h1, h2⟩, h3⟩, fun c hc => ⟨h5 c hc, (h4 c hc).2⟩, h6⟩

theorem Memory.listed_wfFrom (size base : Nat) (vs : List (BitVec w)) (h : base + vs.length ≤ size) :
    Memory.wfFrom size base (Memory.listed base vs) = true := by
  induction vs generalizing base with
  | nil => rfl
  | cons v vs ih =>
    have hl : base + 1 + vs.length ≤ size := by simp only [List.length_cons] at h; omega
    have := ih (base + 1) hl
    rw [Memory.wfFrom_iff] at this
    simp only [Memory.listed]
    split
    · rw [Memory.wfFrom_iff]
      exact ⟨fun c hc => ⟨by have := (this.1 c hc).1; omega, (this.1 c hc).2⟩, this.2⟩
    · rename_i hv
      simp only [Memory.wfFrom, Bool.and_eq_true, decide_eq_true_eq, Bool.not_eq_true', beq_eq_false_iff_ne]
      exact ⟨⟨⟨by omega, by omega⟩, hv⟩, by rw [Memory.wfFrom_iff]; exact this⟩

/-- Writing a run of entries inside the buffer keeps the canonical form. -/
theorem Memory.writeList_wf (size : Nat) (m : Memory w) (base : Nat) (vs : List (BitVec w))
    (hm : Memory.wf size m = true) (h : base + vs.length ≤ size) : Memory.wf size (m.writeList base vs) = true := by
  unfold Memory.wf at *
  rw [Memory.wfFrom_iff] at *
  have hl := (Memory.wfFrom_iff _ _ _).mp (Memory.listed_wfFrom size base vs h)
  have hk := Memory.listed_keys base vs
  unfold Memory.writeList
  constructor
  · intro c hc
    simp only [List.mem_append, List.mem_filter] at hc
    rcases hc with (hc | hc) | hc
    · exact hm.1 c hc.1
    · exact ⟨by omega, (hl.1 c hc).2⟩
    · exact hm.1 c hc.1
  · rw [List.pairwise_append, List.pairwise_append]
    refine ⟨⟨hm.2.filter _, hl.2, ?_⟩, hm.2.filter _, ?_⟩
    · intro c hc d hd
      have := hk d hd
      simp only [List.mem_filter, decide_eq_true_eq] at hc
      omega
    · intro c hc d hd
      simp only [List.mem_filter, decide_eq_true_eq, List.mem_append] at hc hd
      rcases hc with hc | hc
      · omega
      · have := hk c hc; omega

/-- Writing an entry inside the buffer keeps the canonical form. -/
theorem Memory.write_wf (size : Nat) (m : Memory w) (a : Nat) (v : BitVec w)
    (hm : Memory.wf size m = true) (h : a < size) : Memory.wf size (m.write a v) = true :=
  Memory.writeList_wf size m a [v] hm (by simpa using h)

/-- The buffers of the reset state have the canonical form. -/
theorem State.reset_buffers_wf :
    Memory.wf Config.msgMax State.reset.msg = true ∧ Memory.wf Config.wbMax State.reset.wb = true
      ∧ Memory.wf Config.popMax State.reset.out = true := ⟨rfl, rfl, rfl⟩

/-- An index the canonical form lists reads as an entry that is not blank. -/
theorem Memory.read_mem (m : Memory w) (hm : m.Pairwise (fun c d => c.1 < d.1)) (k : Nat) (v : BitVec w)
    (h : (k, v) ∈ m) : Memory.read m k = v := by
  induction m with
  | nil => simp at h
  | cons c m ih =>
    obtain ⟨j, u⟩ := c
    rw [List.pairwise_cons] at hm
    rw [Memory.read_cons]
    rcases List.mem_cons.mp h with h | h
    · simp only [Prod.mk.injEq] at h; simp [h.1, h.2]
    · have := hm.1 (k, v) h
      simp only at this
      rw [if_neg (by omega)]; exact ih hm.2 h

/-- Equal reads make equal data: two canonical buffers that read alike are the same list. -/
theorem Memory.ext_of_wf (size lo : Nat) (m n : Memory w) (hm : Memory.wfFrom size lo m = true)
    (hn : Memory.wfFrom size lo n = true) (h : ∀ a, Memory.read m a = Memory.read n a) : m = n := by
  induction m generalizing lo n with
  | nil =>
    cases n with
    | nil => rfl
    | cons c n =>
      obtain ⟨k, v⟩ := c
      have h1 := ((Memory.wfFrom_iff _ _ _).mp hn).1 (k, v) (by simp)
      have h2 := h k
      simp [Memory.read_cons] at h2
      exact absurd h2.symm h1.2.2
  | cons c m ih =>
    obtain ⟨k, v⟩ := c
    have hm' := (Memory.wfFrom_iff _ _ _).mp hm
    cases n with
    | nil =>
      have h1 := hm'.1 (k, v) (by simp)
      have h2 := h k
      simp [Memory.read_cons] at h2
      exact absurd h2 h1.2.2
    | cons d n =>
      obtain ⟨j, u⟩ := d
      have hn' := (Memory.wfFrom_iff _ _ _).mp hn
      have hk := hm'.1 (k, v) (by simp)
      have hj := hn'.1 (j, u) (by simp)
      have hmp := List.pairwise_cons.mp hm'.2
      have hnp := List.pairwise_cons.mp hn'.2
      simp only at hk hj
      have hkj : k = j := by
        by_contra hne
        rcases Nat.lt_or_gt_of_ne hne with hlt | hlt
        · have h1 := h k
          rw [Memory.read_cons, if_pos rfl, Memory.read_cons, if_neg (by omega),
            Memory.read_eq_zero n k fun c hc => by have := hnp.1 c hc; simp only at this; omega] at h1
          exact hk.2.2 h1
        · have h1 := h j
          rw [Memory.read_cons, if_neg (by omega), Memory.read_cons, if_pos rfl,
            Memory.read_eq_zero m j fun c hc => by have := hmp.1 c hc; simp only at this; omega] at h1
          exact hj.2.2 h1.symm
      subst hkj
      have hvu : v = u := by have := h k; simpa [Memory.read_cons] using this
      subst hvu
      have hm2 : Memory.wfFrom size (k + 1) m = true := by
        simp only [Memory.wfFrom, Bool.and_eq_true] at hm; exact hm.2
      have hn2 : Memory.wfFrom size (k + 1) n = true := by
        simp only [Memory.wfFrom, Bool.and_eq_true] at hn; exact hn.2
      rw [ih (k + 1) n hm2 hn2 fun a => ?_]
      by_cases ha : k = a
      · subst ha
        rw [Memory.read_eq_zero m k fun c hc => by have := hmp.1 c hc; simp only at this; omega,
          Memory.read_eq_zero n k fun c hc => by have := hnp.1 c hc; simp only at this; omega]
      · have := h a
        simpa [Memory.read_cons, ha] using this

end Sys2Proof.Machine
end

