-- ==== Sys2Proof/Laws/State.lean ====
section
/-! SUPPORT. The small lemmas of the state updates: what each field holds after each named update. -/

namespace Sys2Proof.Machine

variable (s : State)

/-! ### setRes -/

@[simp] theorem State.setRes_op (k : Fin 4) (v : Word) : (s.setRes k v).op = s.op := rfl
@[simp] theorem State.setRes_res (k : Fin 4) (v : Word) : (s.setRes k v).res = s.res.set k v := rfl
@[simp] theorem State.setRes_result (k : Fin 4) (v : Word) : (s.setRes k v).result = s.result := rfl
@[simp] theorem State.setRes_detail (k : Fin 4) (v : Word) : (s.setRes k v).detail = s.detail := rfl
@[simp] theorem State.setRes_lastOp (k : Fin 4) (v : Word) : (s.setRes k v).lastOp = s.lastOp := rfl
@[simp] theorem State.setRes_cfgOk (k : Fin 4) (v : Word) : (s.setRes k v).cfgOk = s.cfgOk := rfl
@[simp] theorem State.setRes_stickyErr (k : Fin 4) (v : Word) : (s.setRes k v).stickyErr = s.stickyErr := rfl
@[simp] theorem State.setRes_polInv (k : Fin 4) (v : Word) : (s.setRes k v).polInv = s.polInv := rfl
@[simp] theorem State.setRes_baud (k : Fin 4) (v : Word) : (s.setRes k v).baud = s.baud := rfl
@[simp] theorem State.setRes_symrate (k : Fin 4) (v : Word) : (s.setRes k v).symrate = s.symrate := rfl
@[simp] theorem State.setRes_repeatCount (k : Fin 4) (v : Word) : (s.setRes k v).repeatCount = s.repeatCount := rfl
@[simp] theorem State.setRes_msgLen (k : Fin 4) (v : Word) : (s.setRes k v).msgLen = s.msgLen := rfl
@[simp] theorem State.setRes_msg (k : Fin 4) (v : Word) : (s.setRes k v).msg = s.msg := rfl
@[simp] theorem State.setRes_capCount (k : Fin 4) (v : Word) : (s.setRes k v).capCount = s.capCount := rfl
@[simp] theorem State.setRes_cap (k : Fin 4) (v : Word) : (s.setRes k v).cap = s.cap := rfl
@[simp] theorem State.setRes_wbLen (k : Fin 4) (v : Word) : (s.setRes k v).wbLen = s.wbLen := rfl
@[simp] theorem State.setRes_wb (k : Fin 4) (v : Word) : (s.setRes k v).wb = s.wb := rfl
@[simp] theorem State.setRes_out (k : Fin 4) (v : Word) : (s.setRes k v).out = s.out := rfl
@[simp] theorem State.setRes_bv (k : Fin 4) (v : Word) : (s.setRes k v).bv = s.bv := rfl
@[simp] theorem State.setRes_fifo (k : Fin 4) (v : Word) : (s.setRes k v).fifo = s.fifo := rfl
@[simp] theorem State.setRes_params (k : Fin 4) (v : Word) : (s.setRes k v).params = s.params := rfl
@[simp] theorem State.setRes_pending (k : Fin 4) (v : Word) : (s.setRes k v).pending = s.pending := rfl
@[simp] theorem State.setRes_readData (k : Fin 4) (v : Word) : (s.setRes k v).readData = s.readData := rfl

/-! ### setWords -/

@[simp] theorem State.setWords_op (ws : List Word) : (s.setWords ws).op = s.op := rfl
@[simp] theorem State.setWords_res (ws : List Word) : (s.setWords ws).res = s.res := rfl
@[simp] theorem State.setWords_result (ws : List Word) : (s.setWords ws).result = s.result := rfl
@[simp] theorem State.setWords_detail (ws : List Word) : (s.setWords ws).detail = s.detail := rfl
@[simp] theorem State.setWords_lastOp (ws : List Word) : (s.setWords ws).lastOp = s.lastOp := rfl
@[simp] theorem State.setWords_cfgOk (ws : List Word) : (s.setWords ws).cfgOk = s.cfgOk := rfl
@[simp] theorem State.setWords_stickyErr (ws : List Word) : (s.setWords ws).stickyErr = s.stickyErr := rfl
@[simp] theorem State.setWords_polInv (ws : List Word) : (s.setWords ws).polInv = s.polInv := rfl
@[simp] theorem State.setWords_baud (ws : List Word) : (s.setWords ws).baud = s.baud := rfl
@[simp] theorem State.setWords_symrate (ws : List Word) : (s.setWords ws).symrate = s.symrate := rfl
@[simp] theorem State.setWords_repeatCount (ws : List Word) : (s.setWords ws).repeatCount = s.repeatCount := rfl
@[simp] theorem State.setWords_msgLen (ws : List Word) : (s.setWords ws).msgLen = s.msgLen := rfl
@[simp] theorem State.setWords_msg (ws : List Word) : (s.setWords ws).msg = s.msg := rfl
@[simp] theorem State.setWords_capCount (ws : List Word) : (s.setWords ws).capCount = s.capCount := rfl
@[simp] theorem State.setWords_cap (ws : List Word) : (s.setWords ws).cap = s.cap := rfl
@[simp] theorem State.setWords_wbLen (ws : List Word) : (s.setWords ws).wbLen = BitVec.ofNat 32 ws.length := rfl
@[simp] theorem State.setWords_wb (ws : List Word) : (s.setWords ws).wb = Memory.writeList s.wb 0 ws := rfl
@[simp] theorem State.setWords_out (ws : List Word) : (s.setWords ws).out = s.out := rfl
@[simp] theorem State.setWords_bv (ws : List Word) : (s.setWords ws).bv = s.bv := rfl
@[simp] theorem State.setWords_fifo (ws : List Word) : (s.setWords ws).fifo = s.fifo := rfl
@[simp] theorem State.setWords_params (ws : List Word) : (s.setWords ws).params = s.params := rfl
@[simp] theorem State.setWords_pending (ws : List Word) : (s.setWords ws).pending = s.pending := rfl
@[simp] theorem State.setWords_readData (ws : List Word) : (s.setWords ws).readData = s.readData := rfl

/-! ### setWord0 -/

@[simp] theorem State.setWord0_op (v : Word) : (s.setWord0 v).op = s.op := rfl
@[simp] theorem State.setWord0_res (v : Word) : (s.setWord0 v).res = s.res := rfl
@[simp] theorem State.setWord0_result (v : Word) : (s.setWord0 v).result = s.result := rfl
@[simp] theorem State.setWord0_detail (v : Word) : (s.setWord0 v).detail = s.detail := rfl
@[simp] theorem State.setWord0_lastOp (v : Word) : (s.setWord0 v).lastOp = s.lastOp := rfl
@[simp] theorem State.setWord0_cfgOk (v : Word) : (s.setWord0 v).cfgOk = s.cfgOk := rfl
@[simp] theorem State.setWord0_stickyErr (v : Word) : (s.setWord0 v).stickyErr = s.stickyErr := rfl
@[simp] theorem State.setWord0_polInv (v : Word) : (s.setWord0 v).polInv = s.polInv := rfl
@[simp] theorem State.setWord0_baud (v : Word) : (s.setWord0 v).baud = s.baud := rfl
@[simp] theorem State.setWord0_symrate (v : Word) : (s.setWord0 v).symrate = s.symrate := rfl
@[simp] theorem State.setWord0_repeatCount (v : Word) : (s.setWord0 v).repeatCount = s.repeatCount := rfl
@[simp] theorem State.setWord0_msgLen (v : Word) : (s.setWord0 v).msgLen = s.msgLen := rfl
@[simp] theorem State.setWord0_msg (v : Word) : (s.setWord0 v).msg = s.msg := rfl
@[simp] theorem State.setWord0_capCount (v : Word) : (s.setWord0 v).capCount = s.capCount := rfl
@[simp] theorem State.setWord0_cap (v : Word) : (s.setWord0 v).cap = s.cap := rfl
@[simp] theorem State.setWord0_wbLen (v : Word) : (s.setWord0 v).wbLen = s.wbLen := rfl
@[simp] theorem State.setWord0_wb (v : Word) : (s.setWord0 v).wb = Memory.write s.wb 0 v := rfl
@[simp] theorem State.setWord0_out (v : Word) : (s.setWord0 v).out = s.out := rfl
@[simp] theorem State.setWord0_bv (v : Word) : (s.setWord0 v).bv = s.bv := rfl
@[simp] theorem State.setWord0_fifo (v : Word) : (s.setWord0 v).fifo = s.fifo := rfl
@[simp] theorem State.setWord0_params (v : Word) : (s.setWord0 v).params = s.params := rfl
@[simp] theorem State.setWord0_pending (v : Word) : (s.setWord0 v).pending = s.pending := rfl
@[simp] theorem State.setWord0_readData (v : Word) : (s.setWord0 v).readData = s.readData := rfl

/-! ### endOk -/

@[simp] theorem State.endOk_op (opc : Byte) : (s.endOk opc).op = s.op := rfl
@[simp] theorem State.endOk_res (opc : Byte) : (s.endOk opc).res = s.res := rfl
@[simp] theorem State.endOk_result (opc : Byte) : (s.endOk opc).result = 0 := rfl
@[simp] theorem State.endOk_detail (opc : Byte) : (s.endOk opc).detail = 0 := rfl
@[simp] theorem State.endOk_lastOp (opc : Byte) : (s.endOk opc).lastOp = opc := rfl
@[simp] theorem State.endOk_cfgOk (opc : Byte) : (s.endOk opc).cfgOk = s.cfgOk := rfl
@[simp] theorem State.endOk_stickyErr (opc : Byte) : (s.endOk opc).stickyErr = s.stickyErr := rfl
@[simp] theorem State.endOk_polInv (opc : Byte) : (s.endOk opc).polInv = s.polInv := rfl
@[simp] theorem State.endOk_baud (opc : Byte) : (s.endOk opc).baud = s.baud := rfl
@[simp] theorem State.endOk_symrate (opc : Byte) : (s.endOk opc).symrate = s.symrate := rfl
@[simp] theorem State.endOk_repeatCount (opc : Byte) : (s.endOk opc).repeatCount = s.repeatCount := rfl
@[simp] theorem State.endOk_msgLen (opc : Byte) : (s.endOk opc).msgLen = s.msgLen := rfl
@[simp] theorem State.endOk_msg (opc : Byte) : (s.endOk opc).msg = s.msg := rfl
@[simp] theorem State.endOk_capCount (opc : Byte) : (s.endOk opc).capCount = s.capCount := rfl
@[simp] theorem State.endOk_cap (opc : Byte) : (s.endOk opc).cap = s.cap := rfl
@[simp] theorem State.endOk_wbLen (opc : Byte) : (s.endOk opc).wbLen = s.wbLen := rfl
@[simp] theorem State.endOk_wb (opc : Byte) : (s.endOk opc).wb = s.wb := rfl
@[simp] theorem State.endOk_out (opc : Byte) : (s.endOk opc).out = s.out := rfl
@[simp] theorem State.endOk_bv (opc : Byte) : (s.endOk opc).bv = s.bv := rfl
@[simp] theorem State.endOk_fifo (opc : Byte) : (s.endOk opc).fifo = s.fifo := rfl
@[simp] theorem State.endOk_params (opc : Byte) : (s.endOk opc).params = s.params := rfl
@[simp] theorem State.endOk_pending (opc : Byte) : (s.endOk opc).pending = s.pending := rfl
@[simp] theorem State.endOk_readData (opc : Byte) : (s.endOk opc).readData = s.readData := rfl

/-! ### endError -/

@[simp] theorem State.endError_op (e : CmdError) (opc : Byte) : (s.endError e opc).op = s.op := rfl
@[simp] theorem State.endError_res (e : CmdError) (opc : Byte) : (s.endError e opc).res = s.res := rfl
@[simp] theorem State.endError_result (e : CmdError) (opc : Byte) : (s.endError e opc).result = errorResult e := rfl
@[simp] theorem State.endError_detail (e : CmdError) (opc : Byte) : (s.endError e opc).detail = errorDetail e := rfl
@[simp] theorem State.endError_lastOp (e : CmdError) (opc : Byte) : (s.endError e opc).lastOp = opc := rfl
@[simp] theorem State.endError_cfgOk (e : CmdError) (opc : Byte) : (s.endError e opc).cfgOk = s.cfgOk := rfl
@[simp] theorem State.endError_stickyErr (e : CmdError) (opc : Byte) : (s.endError e opc).stickyErr = true := rfl
@[simp] theorem State.endError_polInv (e : CmdError) (opc : Byte) : (s.endError e opc).polInv = s.polInv := rfl
@[simp] theorem State.endError_baud (e : CmdError) (opc : Byte) : (s.endError e opc).baud = s.baud := rfl
@[simp] theorem State.endError_symrate (e : CmdError) (opc : Byte) : (s.endError e opc).symrate = s.symrate := rfl
@[simp] theorem State.endError_repeatCount (e : CmdError) (opc : Byte) : (s.endError e opc).repeatCount = s.repeatCount := rfl
@[simp] theorem State.endError_msgLen (e : CmdError) (opc : Byte) : (s.endError e opc).msgLen = s.msgLen := rfl
@[simp] theorem State.endError_msg (e : CmdError) (opc : Byte) : (s.endError e opc).msg = s.msg := rfl
@[simp] theorem State.endError_capCount (e : CmdError) (opc : Byte) : (s.endError e opc).capCount = s.capCount := rfl
@[simp] theorem State.endError_cap (e : CmdError) (opc : Byte) : (s.endError e opc).cap = s.cap := rfl
@[simp] theorem State.endError_wbLen (e : CmdError) (opc : Byte) : (s.endError e opc).wbLen = s.wbLen := rfl
@[simp] theorem State.endError_wb (e : CmdError) (opc : Byte) : (s.endError e opc).wb = s.wb := rfl
@[simp] theorem State.endError_out (e : CmdError) (opc : Byte) : (s.endError e opc).out = s.out := rfl
@[simp] theorem State.endError_bv (e : CmdError) (opc : Byte) : (s.endError e opc).bv = s.bv := rfl
@[simp] theorem State.endError_fifo (e : CmdError) (opc : Byte) : (s.endError e opc).fifo = s.fifo := rfl
@[simp] theorem State.endError_params (e : CmdError) (opc : Byte) : (s.endError e opc).params = s.params := rfl
@[simp] theorem State.endError_pending (e : CmdError) (opc : Byte) : (s.endError e opc).pending = s.pending := rfl
@[simp] theorem State.endError_readData (e : CmdError) (opc : Byte) : (s.endError e opc).readData = s.readData := rfl

/-! ### clearRates -/

@[simp] theorem State.clearRates_op : (s.clearRates).op = s.op := rfl
@[simp] theorem State.clearRates_res : (s.clearRates).res = s.res := rfl
@[simp] theorem State.clearRates_result : (s.clearRates).result = s.result := rfl
@[simp] theorem State.clearRates_detail : (s.clearRates).detail = s.detail := rfl
@[simp] theorem State.clearRates_lastOp : (s.clearRates).lastOp = s.lastOp := rfl
@[simp] theorem State.clearRates_cfgOk : (s.clearRates).cfgOk = false := rfl
@[simp] theorem State.clearRates_stickyErr : (s.clearRates).stickyErr = s.stickyErr := rfl
@[simp] theorem State.clearRates_polInv : (s.clearRates).polInv = s.polInv := rfl
@[simp] theorem State.clearRates_baud : (s.clearRates).baud = 0 := rfl
@[simp] theorem State.clearRates_symrate : (s.clearRates).symrate = 0 := rfl
@[simp] theorem State.clearRates_repeatCount : (s.clearRates).repeatCount = 0 := rfl
@[simp] theorem State.clearRates_msgLen : (s.clearRates).msgLen = s.msgLen := rfl
@[simp] theorem State.clearRates_msg : (s.clearRates).msg = s.msg := rfl
@[simp] theorem State.clearRates_capCount : (s.clearRates).capCount = s.capCount := rfl
@[simp] theorem State.clearRates_cap : (s.clearRates).cap = s.cap := rfl
@[simp] theorem State.clearRates_wbLen : (s.clearRates).wbLen = s.wbLen := rfl
@[simp] theorem State.clearRates_wb : (s.clearRates).wb = s.wb := rfl
@[simp] theorem State.clearRates_out : (s.clearRates).out = s.out := rfl
@[simp] theorem State.clearRates_bv : (s.clearRates).bv = s.bv := rfl
@[simp] theorem State.clearRates_fifo : (s.clearRates).fifo = s.fifo := rfl
@[simp] theorem State.clearRates_params : (s.clearRates).params = s.params := rfl
@[simp] theorem State.clearRates_pending : (s.clearRates).pending = s.pending := rfl
@[simp] theorem State.clearRates_readData : (s.clearRates).readData = s.readData := rfl

/-! ### queueAccess -/

@[simp] theorem State.queueAccess_op (a : HostAccess) : (s.queueAccess a).op = s.op := rfl
@[simp] theorem State.queueAccess_res (a : HostAccess) : (s.queueAccess a).res = s.res := rfl
@[simp] theorem State.queueAccess_result (a : HostAccess) : (s.queueAccess a).result = s.result := rfl
@[simp] theorem State.queueAccess_detail (a : HostAccess) : (s.queueAccess a).detail = s.detail := rfl
@[simp] theorem State.queueAccess_lastOp (a : HostAccess) : (s.queueAccess a).lastOp = s.lastOp := rfl
@[simp] theorem State.queueAccess_cfgOk (a : HostAccess) : (s.queueAccess a).cfgOk = s.cfgOk := rfl
@[simp] theorem State.queueAccess_stickyErr (a : HostAccess) : (s.queueAccess a).stickyErr = s.stickyErr := rfl
@[simp] theorem State.queueAccess_polInv (a : HostAccess) : (s.queueAccess a).polInv = s.polInv := rfl
@[simp] theorem State.queueAccess_baud (a : HostAccess) : (s.queueAccess a).baud = s.baud := rfl
@[simp] theorem State.queueAccess_symrate (a : HostAccess) : (s.queueAccess a).symrate = s.symrate := rfl
@[simp] theorem State.queueAccess_repeatCount (a : HostAccess) : (s.queueAccess a).repeatCount = s.repeatCount := rfl
@[simp] theorem State.queueAccess_msgLen (a : HostAccess) : (s.queueAccess a).msgLen = s.msgLen := rfl
@[simp] theorem State.queueAccess_msg (a : HostAccess) : (s.queueAccess a).msg = s.msg := rfl
@[simp] theorem State.queueAccess_capCount (a : HostAccess) : (s.queueAccess a).capCount = s.capCount := rfl
@[simp] theorem State.queueAccess_cap (a : HostAccess) : (s.queueAccess a).cap = s.cap := rfl
@[simp] theorem State.queueAccess_wbLen (a : HostAccess) : (s.queueAccess a).wbLen = s.wbLen := rfl
@[simp] theorem State.queueAccess_wb (a : HostAccess) : (s.queueAccess a).wb = s.wb := rfl
@[simp] theorem State.queueAccess_out (a : HostAccess) : (s.queueAccess a).out = s.out := rfl
@[simp] theorem State.queueAccess_bv (a : HostAccess) : (s.queueAccess a).bv = s.bv := rfl
@[simp] theorem State.queueAccess_fifo (a : HostAccess) : (s.queueAccess a).fifo = s.fifo := rfl
@[simp] theorem State.queueAccess_params (a : HostAccess) : (s.queueAccess a).params = s.params := rfl
@[simp] theorem State.queueAccess_pending (a : HostAccess) : (s.queueAccess a).pending = a :: s.pending := rfl
@[simp] theorem State.queueAccess_readData (a : HostAccess) : (s.queueAccess a).readData = s.readData := rfl

/-! ### hostReset -/

@[simp] theorem State.hostReset_op : s.hostReset.op = State.reset.op := rfl
@[simp] theorem State.hostReset_res : s.hostReset.res = State.reset.res := rfl
@[simp] theorem State.hostReset_result : s.hostReset.result = State.reset.result := rfl
@[simp] theorem State.hostReset_detail : s.hostReset.detail = State.reset.detail := rfl
@[simp] theorem State.hostReset_lastOp : s.hostReset.lastOp = State.reset.lastOp := rfl
@[simp] theorem State.hostReset_cfgOk : s.hostReset.cfgOk = State.reset.cfgOk := rfl
@[simp] theorem State.hostReset_stickyErr : s.hostReset.stickyErr = State.reset.stickyErr := rfl
@[simp] theorem State.hostReset_polInv : s.hostReset.polInv = State.reset.polInv := rfl
@[simp] theorem State.hostReset_baud : s.hostReset.baud = State.reset.baud := rfl
@[simp] theorem State.hostReset_symrate : s.hostReset.symrate = State.reset.symrate := rfl
@[simp] theorem State.hostReset_repeatCount : s.hostReset.repeatCount = State.reset.repeatCount := rfl
@[simp] theorem State.hostReset_msgLen : s.hostReset.msgLen = State.reset.msgLen := rfl
@[simp] theorem State.hostReset_msg : s.hostReset.msg = State.reset.msg := rfl
@[simp] theorem State.hostReset_capCount : s.hostReset.capCount = State.reset.capCount := rfl
@[simp] theorem State.hostReset_cap : s.hostReset.cap = State.reset.cap := rfl
@[simp] theorem State.hostReset_wbLen : s.hostReset.wbLen = State.reset.wbLen := rfl
@[simp] theorem State.hostReset_wb : s.hostReset.wb = State.reset.wb := rfl
@[simp] theorem State.hostReset_out : s.hostReset.out = State.reset.out := rfl
@[simp] theorem State.hostReset_bv : s.hostReset.bv = State.reset.bv := rfl
@[simp] theorem State.hostReset_fifo : s.hostReset.fifo = State.reset.fifo := rfl
@[simp] theorem State.hostReset_params : s.hostReset.params = s.params := rfl
@[simp] theorem State.hostReset_pending : s.hostReset.pending = s.pending := rfl
@[simp] theorem State.hostReset_readData : s.hostReset.readData = s.readData := rfl

end Sys2Proof.Machine
end

