-- ==== Sys2Proof/Laws/Ops.lean ====
section
/-! SUPPORT. One lemma per shared operation that says once everything it can do: the checks, the appends, the operand
readers, the end of a command. -/

namespace Sys2Proof.Machine

/-! ### Except -/

/-- A sequence of two effects answers `.ok` exactly when both do. -/
theorem bind_ok_iff {ε α β : Type} (x : Except ε α) (f : α → Except ε β) (b : β) :
    (x >>= f) = .ok b ↔ ∃ a, x = .ok a ∧ f a = .ok b := by
  cases x <;> simp [bind, Except.bind]

/-- A sequence of two effects raises `e` when the first does, or the second does after the first. -/
theorem bind_error_iff {ε α β : Type} (x : Except ε α) (f : α → Except ε β) (e : ε) :
    (x >>= f) = .error e ↔ x = .error e ∨ ∃ a, x = .ok a ∧ f a = .error e := by
  cases x <;> simp [bind, Except.bind]

@[simp] theorem ok_bind {ε α β : Type} (a : α) (f : α → Except ε β) : ((.ok a : Except ε α) >>= f) = f a := rfl

@[simp] theorem error_bind {ε α β : Type} (e : ε) (f : α → Except ε β) :
    ((.error e : Except ε α) >>= f) = .error e := rfl

/-! ### The checks -/

theorem require_ok_iff (b : Bool) (e : CmdError) (u : Unit) : require b e = .ok u ↔ b = true := by
  cases b <;> simp [require]

theorem require_error_iff (b : Bool) (e e' : CmdError) : require b e = .error e' ↔ b = false ∧ e = e' := by
  cases b <;> simp [require]

/-- A check of a decidable condition passes exactly when the condition holds. -/
theorem require_decide_ok_iff (p : Prop) [Decidable p] (e : CmdError) (u : Unit) :
    require (decide p) e = .ok u ↔ p := by
  rw [require_ok_iff]; exact decide_eq_true_iff

@[simp] theorem require_true (e : CmdError) : require true e = .ok () := rfl

@[simp] theorem require_false (e : CmdError) : require false e = .error e := rfl

theorem requireConfigured_ok_iff (s : State) (u : Unit) : s.requireConfigured = .ok u ↔ s.cfgOk = true := by
  simp [State.requireConfigured, require_ok_iff]

/-! ### The end of a command -/

@[simp] theorem endCommand_ok (s t : State) (opc : Byte) : s.endCommand opc (.ok t) = t.endOk opc := rfl

@[simp] theorem endCommand_error (s : State) (e : CmdError) (opc : Byte) :
    s.endCommand opc (.error e) = s.endError e opc := rfl

/-- No error has RESULT 0, so RESULT tells a failed command from a completed one. -/
@[simp] theorem errorResult_ne_zero (e : CmdError) : ¬ errorResult e = 0#4 := by cases e <;> simp [errorResult]

/-- What the end of a command can be: the completed effect, or the error with nothing but STATUS changed. -/
theorem endCommand_cases (s : State) (opc : Byte) (r : Except CmdError State) :
    (∃ t, r = .ok t ∧ s.endCommand opc r = t.endOk opc) ∨ (∃ e, r = .error e ∧ s.endCommand opc r = s.endError e opc) := by
  cases r with
  | ok t => exact .inl ⟨t, rfl, rfl⟩
  | error e => exact .inr ⟨e, rfl, rfl⟩

theorem endCommand_result_zero_iff (s : State) (opc : Byte) (r : Except CmdError State) :
    (s.endCommand opc r).result = 0 ↔ ∃ t, r = .ok t := by
  cases r with
  | ok t => simp
  | error e => simp

/-! ### Counts and appends -/

theorem countWord_of_lt (n : Nat) (h : n < 2 ^ 32) : countWord n = BitVec.ofNat 32 n :=
  if_pos h

@[simp] theorem repeatBits_length (r : Nat) (s : List Bool) : (repeatBits r s).length = s.length * r := by
  induction s with
  | nil => simp [repeatBits]
  | cons b s ih =>
    have : repeatBits r (b :: s) = List.replicate r b ++ repeatBits r s := by simp [repeatBits]
    rw [this]; simp [ih, Nat.succ_mul, Nat.add_comm]

/-- No repetition. -/
@[simp] theorem repeatBits_one (s : List Bool) : repeatBits 1 s = s := by
  induction s with
  | nil => rfl
  | cons b s ih => simp [repeatBits]

/-- All an append can do: overflow, or the repeated bits at the FIFO's tail and their number. -/
theorem appendSymbols_eq (s : State) (x : List Bool) (r : Nat) :
    s.appendSymbols x r =
      if s.params.fifoCap < s.fifo.length + x.length * r then .error .queueOverflow
      else .ok ({ s with fifo := s.fifo ++ repeatBits r x }, x.length * r) := rfl

theorem appendSymbols_ok_iff (s : State) (x : List Bool) (r : Nat) (p : State × Nat) :
    s.appendSymbols x r = .ok p ↔ s.fifo.length + x.length * r ≤ s.params.fifoCap
      ∧ p = ({ s with fifo := s.fifo ++ repeatBits r x }, x.length * r) := by
  rw [appendSymbols_eq]
  split
  · simp; omega
  · simp only [Except.ok.injEq]
    exact ⟨fun h => ⟨by omega, h.symm⟩, fun h => h.2.symm⟩

theorem appendSymbols_error_iff (s : State) (x : List Bool) (r : Nat) (e : CmdError) :
    s.appendSymbols x r = .error e ↔ s.params.fifoCap < s.fifo.length + x.length * r ∧ e = .queueOverflow := by
  rw [appendSymbols_eq]
  split
  · rename_i h; simp [h, eq_comm]
  · rename_i h; simp; omega

theorem pushBits_ok_iff (s : State) (x : List Bool) (t : State) :
    s.pushBits x = .ok t ↔ s.fifo.length + x.length * s.repeatCount.toNat ≤ s.params.fifoCap
      ∧ t = State.setRes { s with fifo := s.fifo ++ repeatBits s.repeatCount.toNat x } 0
          (countWord (x.length * s.repeatCount.toNat)) := by
  simp only [State.pushBits, State.fifoAppend, bind_ok_iff, appendSymbols_ok_iff, Except.ok.injEq]
  constructor
  · rintro ⟨p, ⟨h, rfl⟩, rfl⟩; exact ⟨h, rfl⟩
  · rintro ⟨h, rfl⟩; exact ⟨_, ⟨h, rfl⟩, rfl⟩

theorem queueFrame_ok_iff (s : State) (x : List Bool) (t : State) :
    s.queueFrame x = .ok t ↔ s.fifo.length + x.length * s.repeatCount.toNat ≤ s.params.fifoCap
      ∧ t = State.setRes (State.setRes { s with fifo := s.fifo ++ repeatBits s.repeatCount.toNat x } 1
          (countWord (x.length * s.repeatCount.toNat))) 0 (countWord x.length) := by
  simp only [State.queueFrame, State.fifoAppend, bind_ok_iff, appendSymbols_ok_iff, Except.ok.injEq]
  constructor
  · rintro ⟨p, ⟨h, rfl⟩, rfl⟩; exact ⟨h, rfl⟩
  · rintro ⟨h, rfl⟩; exact ⟨_, ⟨h, rfl⟩, rfl⟩

theorem pushBits_error_iff (s : State) (x : List Bool) (e : CmdError) :
    s.pushBits x = .error e ↔ s.params.fifoCap < s.fifo.length + x.length * s.repeatCount.toNat
      ∧ e = .queueOverflow := by
  simp [State.pushBits, State.fifoAppend, bind_error_iff, appendSymbols_error_iff]

theorem queueFrame_error_iff (s : State) (x : List Bool) (e : CmdError) :
    s.queueFrame x = .error e ↔ s.params.fifoCap < s.fifo.length + x.length * s.repeatCount.toNat
      ∧ e = .queueOverflow := by
  simp [State.queueFrame, State.fifoAppend, bind_error_iff, appendSymbols_error_iff]

end Sys2Proof.Machine
end

