-- ==== Sys2Proof/Laws/Operands.lean ====
section
/-! SUPPORT. What each operand reader can answer. -/

namespace Sys2Proof.Machine

theorem message_ok_iff (s : State) (m : List Byte) :
    s.message = .ok m ↔ (0 < s.msgLen.toNat ∧ s.msgLen.toNat ≤ 256) ∧ m = Memory.readList s.msg s.msgLen.toNat := by
  simp only [State.message, bind_ok_iff, require_decide_ok_iff, Except.ok.injEq]
  exact ⟨fun ⟨_, h, hm⟩ => ⟨h, hm.symm⟩, fun ⟨h, hm⟩ => ⟨(), h, hm.symm⟩⟩

theorem message_length (s : State) (m : List Byte) (h : s.message = .ok m) : 0 < m.length ∧ m.length ≤ 256 := by
  obtain ⟨hlen, rfl⟩ := (message_ok_iff s m).mp h
  rw [Memory.readList_length]
  exact hlen

theorem words_ok_iff (s : State) (ws : List Word) :
    s.words = .ok ws ↔ (0 < s.wbLen.toNat ∧ s.wbLen.toNat ≤ 128) ∧ ws = Memory.readList s.wb s.wbLen.toNat := by
  simp only [State.words, bind_ok_iff, require_decide_ok_iff, Except.ok.injEq]
  exact ⟨fun ⟨_, h, hm⟩ => ⟨h, hm.symm⟩, fun ⟨h, hm⟩ => ⟨(), h, hm.symm⟩⟩

theorem soleCapcode_ok_iff (s : State) (c : Word) : s.soleCapcode = .ok c ↔ s.capCount = 1 ∧ c = s.cap[0] := by
  simp only [State.soleCapcode, bind_ok_iff, require_ok_iff, beq_iff_eq, Except.ok.injEq]
  exact ⟨fun ⟨_, h, hm⟩ => ⟨h, hm.symm⟩, fun ⟨h, hm⟩ => ⟨(), h, hm.symm⟩⟩

theorem capcodes_ok_iff (s : State) (cs : List Word) :
    s.capcodes = .ok cs ↔ (1 ≤ s.capCount.toNat ∧ s.capCount.toNat ≤ 8)
      ∧ cs = s.cap.toList.take s.capCount.toNat := by
  simp only [State.capcodes, bind_ok_iff, require_decide_ok_iff, Except.ok.injEq]
  exact ⟨fun ⟨_, h, hm⟩ => ⟨h, hm.symm⟩, fun ⟨h, hm⟩ => ⟨(), h, hm.symm⟩⟩

theorem units_length (s : State) : s.units.length = 7 := by simp [State.units]

/-- The codes of a message exist exactly when every byte is mapped, and are the bytes' codes in order. -/
theorem encodeChars_ok_iff {α : Type} (f : Byte → Option α) (m : List Byte) (ks : List α) :
    encodeChars f m = .ok ks ↔ m.map f = ks.map some := by
  induction m generalizing ks with
  | nil => cases ks <;> simp [encodeChars]
  | cons c m ih =>
    cases hc : f c with
    | none => cases ks <;> simp [encodeChars, hc]
    | some k =>
      cases hr : encodeChars f m with
      | error e =>
        cases ks with
        | nil => simp [encodeChars, hc, hr]
        | cons k' ks =>
          have : ¬ m.map f = ks.map some := fun h => by rw [(ih ks).mpr h] at hr; cases hr
          simp [encodeChars, hc, hr, this]
      | ok l =>
        have hl := (ih l).mp hr
        cases ks with
        | nil => simp [encodeChars, hc, hr]
        | cons k' ks =>
          simp only [encodeChars, hc, hr, Except.ok.injEq, List.cons.injEq, List.map_cons, Option.some.injEq, hl]
          constructor
          · rintro ⟨rfl, rfl⟩; exact ⟨rfl, rfl⟩
          · rintro ⟨rfl, h⟩; exact ⟨rfl, List.map_injective_iff.mpr (Option.some_injective α) h⟩

theorem encodeChars_length {α : Type} (f : Byte → Option α) (m : List Byte) (ks : List α)
    (h : encodeChars f m = .ok ks) : ks.length = m.length := by
  have := congrArg List.length ((encodeChars_ok_iff f m ks).mp h)
  simpa using this.symm

/-- The one error of the character maps is CHARACTER, raised exactly when some byte is unmapped. -/
theorem encodeChars_error_iff {α : Type} (f : Byte → Option α) (m : List Byte) (e : CmdError) :
    encodeChars f m = .error e ↔ (∃ c ∈ m, f c = none) ∧ e = .inputValidation .character := by
  induction m with
  | nil => simp [encodeChars]
  | cons c m ih =>
    cases hc : f c with
    | none => simp [encodeChars, hc, eq_comm]
    | some k =>
      cases hr : encodeChars f m with
      | error e' =>
        rw [hr] at ih
        simp only [encodeChars, hc, hr, Except.error.injEq, List.mem_cons, exists_eq_or_imp, reduceCtorEq, false_or]
        simpa using ih
      | ok l =>
        rw [hr] at ih
        simp only [encodeChars, hc, hr, List.mem_cons, exists_eq_or_imp, reduceCtorEq, false_or]
        simpa using ih

end Sys2Proof.Machine
end

