-- ==== Sys2Proof/Laws/Encoders.lean ====
section
/-! SUPPORT. What each shared step of the three protocol encoders can answer, and how long what it builds is. -/

namespace Sys2Proof.Machine

/-! ### POCSAG -/

theorem pocsagAddr_ok_iff (cap : Word) (fb : BitVec 2) (p : Word × Nat) :
    pocsagAddr cap fb = .ok p ↔ cap ≤ 0x1FFFFF#32
      ∧ p = (bch31 (((cap >>> 3) <<< 13) ||| (fb.setWidth 32 <<< 11)), (cap &&& 7#32).toNat) := by
  simp only [pocsagAddr, bind_ok_iff, require_decide_ok_iff, Except.ok.injEq]
  exact ⟨fun ⟨_, h, hp⟩ => ⟨h, hp.symm⟩, fun ⟨h, hp⟩ => ⟨(), h, hp.symm⟩⟩

@[simp] theorem pocsagWords_length (s : List Bool) : (pocsagWords s).length = s.length / 20 := by simp [pocsagWords]

/-- The bits of a list of codes, least significant first. -/
theorem flatMap_bitsLsb_length {n : Nat} (ks : List (BitVec n)) : (ks.flatMap bitsLsb).length = n * ks.length := by
  induction ks with
  | nil => simp
  | cons k ks ih => simp [ih, Nat.mul_succ]; omega

theorem ceilDiv_mul_ge (a b : Nat) (hb : 0 < b) : a ≤ b * ceilDiv a b := by
  have h1 := Nat.div_add_mod (a + b - 1) b
  have h2 := Nat.mod_lt (a + b - 1) hb
  unfold ceilDiv
  omega

/-- Filling to the next multiple of `n` makes a whole number of `n`-bit groups. -/
theorem fillTo_groups (n : Nat) (hn : 0 < n) (f : Nat → Bool) (s : List Bool) :
    (fillTo (n * ceilDiv s.length n) f s).length / n = ceilDiv s.length n := by
  rw [fillTo_length, Nat.max_eq_right (ceilDiv_mul_ge _ _ hn), Nat.mul_div_cancel_left _ hn]

/-- The numeric words of a message (R194): one code a byte, and `ceil(L/5)` words. -/
theorem pocsagNumWords_ok_iff (m : List Byte) (w : List Word) :
    pocsagNumWords m = .ok w ↔ ∃ ks : List (BitVec 4), m.map numMap = ks.map some
      ∧ w = pocsagWords (fillTo (20 * ceilDiv (ks.flatMap bitsLsb).length 20)
          (fun n => spaceCode.getLsbD (n % 4)) (ks.flatMap bitsLsb)) := by
  simp only [pocsagNumWords, bind_ok_iff, encodeChars_ok_iff, Except.ok.injEq]
  exact ⟨fun ⟨ks, h, hw⟩ => ⟨ks, h, hw.symm⟩, fun ⟨ks, h, hw⟩ => ⟨ks, h, hw.symm⟩⟩

theorem pocsagNumWords_length (m : List Byte) (w : List Word) (h : pocsagNumWords m = .ok w) :
    w.length = ceilDiv (4 * m.length) 20 := by
  obtain ⟨ks, hk, rfl⟩ := (pocsagNumWords_ok_iff m w).mp h
  have hl : m.length = ks.length := by simpa using congrArg List.length hk
  rw [pocsagWords_length, fillTo_groups 20 (by decide), flatMap_bitsLsb_length, hl]

/-- The alphanumeric words of a message (R195). -/
theorem pocsagAlphaWords_ok_iff (m : List Byte) (w : List Word) :
    pocsagAlphaWords m = .ok w ↔ ∃ ks : List (BitVec 7), (m ++ [pocsagEot]).map asciiMap = ks.map some
      ∧ w = pocsagWords (fillTo (20 * ceilDiv (ks.flatMap bitsLsb).length 20) (fun _ => false)
          (ks.flatMap bitsLsb)) := by
  simp only [pocsagAlphaWords, bind_ok_iff, encodeChars_ok_iff, Except.ok.injEq]
  exact ⟨fun ⟨ks, h, hw⟩ => ⟨ks, h, hw.symm⟩, fun ⟨ks, h, hw⟩ => ⟨ks, h, hw.symm⟩⟩

theorem pocsagAlphaWords_length (m : List Byte) (w : List Word) (h : pocsagAlphaWords m = .ok w) :
    w.length = ceilDiv (7 * (m.length + 1)) 20 := by
  obtain ⟨ks, hk, rfl⟩ := (pocsagAlphaWords_ok_iff m w).mp h
  have hl : m.length + 1 = ks.length := by simpa using congrArg List.length hk
  rw [pocsagWords_length, fillTo_groups 20 (by decide), flatMap_bitsLsb_length, hl]

/-- A slot sequence is a whole number of batches (R198). -/
theorem pocsagSlots_length (aw : Word) (off : Nat) (w : List Word) :
    (pocsagSlots aw off w).length = 16 * ceilDiv (2 * off + w.length + 2) 16 := by
  have h := ceilDiv_mul_ge (2 * off + w.length + 2) 16 (by decide)
  simp only [pocsagSlots, List.length_append, List.length_replicate, List.length_cons, List.length_nil]
  rw [show 2 * off + (0 + 1) + w.length + (0 + 1) = 2 * off + w.length + 2 by omega]
  omega

theorem flatMap_bitsMsb_length {n : Nat} (ws : List (BitVec n)) : (ws.flatMap bitsMsb).length = n * ws.length := by
  induction ws with
  | nil => simp
  | cons w ws ih => simp [ih, Nat.mul_succ]; omega

/-- A list of pieces of one length. -/
theorem flatMap_range_length {α : Type} (f : Nat → List α) (n c : Nat) (h : ∀ i < n, (f i).length = c) :
    ((List.range n).flatMap f).length = c * n := by
  induction n with
  | zero => simp
  | succ n ih =>
    rw [List.range_succ, List.flatMap_append, List.length_append, ih fun i hi => h i (by omega)]
    simp [h n (by omega), Nat.mul_succ]

/-- The transmission of `B` batches has `576 + 544·B` bits (R199). -/
theorem pocsagBits_length (t : List Word) : (pocsagBits t).length = 576 + 544 * (t.length / 16) := by
  rw [pocsagBits, List.length_append, flatMap_range_length _ _ 544]
  · simp [pocsagPreamble]
  · intro b hb
    have hlen : (chunk 16 b t).length = 16 := chunk_length 16 b t (by omega)
    rw [List.length_append, bitsMsb_length, flatMap_bitsMsb_length, hlen]

/-! ### FLEX -/

theorem flexSaddr_ok_iff (a w : Word) :
    flexSaddr a = .ok w ↔ (32769 ≤ a.toNat ∧ a.toNat ≤ 1966080) ∧ w = fcw a := by
  simp only [flexSaddr, bind_ok_iff, require_decide_ok_iff, Except.ok.injEq]
  exact ⟨fun ⟨_, h, hp⟩ => ⟨h, hp.symm⟩, fun ⟨h, hp⟩ => ⟨(), h, hp.symm⟩⟩

theorem checkShortAddrs_ok_iff (as : List Word) (u : Unit) :
    checkShortAddrs as = .ok u ↔ ∀ a ∈ as, 32769 ≤ a.toNat ∧ a.toNat ≤ 1966080 := by
  induction as with
  | nil => simp [checkShortAddrs]
  | cons a as ih =>
    simp only [checkShortAddrs, bind_ok_iff, flexSaddr_ok_iff, ih, List.mem_cons, forall_eq_or_imp]
    exact ⟨fun ⟨_, ⟨h, _⟩, h'⟩ => ⟨h, h'⟩, fun ⟨h, h'⟩ => ⟨_, ⟨h, rfl⟩, h'⟩⟩

theorem biwDw_ok_iff (p : Word) (v : Nat) (d : Word) :
    biwDw p v = .ok d ↔ v ≤ 63 ∧ d = fxcsum ((p &&& 0x1F03F0#32) ||| (BitVec.ofNat 32 v <<< 10)) := by
  simp only [biwDw, bind_ok_iff, require_decide_ok_iff, Except.ok.injEq]
  exact ⟨fun ⟨_, h, hp⟩ => ⟨h, hp.symm⟩, fun ⟨h, hp⟩ => ⟨(), h, hp.symm⟩⟩

theorem vecnDw_ok_iff (b w k : Nat) (d : Word) :
    vecnDw b w k = .ok d ↔ (b ≤ 127 ∧ 1 ≤ w ∧ w ≤ 8 ∧ k ≤ 63)
      ∧ d = fxcsum ((3#32 <<< 4) ||| (BitVec.ofNat 32 b <<< 7) ||| (BitVec.ofNat 32 (w - 1) <<< 14)
          ||| ((BitVec.ofNat 32 k &&& 0xF#32) <<< 17)) := by
  simp only [vecnDw, bind_ok_iff, require_decide_ok_iff, Except.ok.injEq]
  exact ⟨fun ⟨_, h, hp⟩ => ⟨h, hp.symm⟩, fun ⟨h, hp⟩ => ⟨(), h, hp.symm⟩⟩

theorem vecaDw_ok_iff (b w : Nat) (d : Word) :
    vecaDw b w = .ok d ↔ (b ≤ 127 ∧ 1 ≤ w ∧ w ≤ 127)
      ∧ d = fxcsum ((5#32 <<< 4) ||| (BitVec.ofNat 32 b <<< 7) ||| (BitVec.ofNat 32 w <<< 14)) := by
  simp only [vecaDw, bind_ok_iff, require_decide_ok_iff, Except.ok.injEq]
  exact ⟨fun ⟨_, h, hp⟩ => ⟨h, hp.symm⟩, fun ⟨h, hp⟩ => ⟨(), h, hp.symm⟩⟩

/-- A numeric message of `D` digits has `ceil((2 + 4D)/21)` words, at most 8 (R231). -/
theorem flexNumWords_length (m : List Byte) (r : List Word × BitVec 6) (h : flexNumWords m = .ok r) :
    m.length ≤ 41 ∧ r.1.length = ceilDiv (2 + 4 * m.length) 21 := by
  simp only [flexNumWords, bind_ok_iff, require_decide_ok_iff, Except.ok.injEq] at h
  obtain ⟨_, hm, ks, _, rfl⟩ := h
  exact ⟨hm, by simp⟩

/-- An alphanumeric message of `L` characters has the words R233 counts. -/
theorem flexAlphaWords_length (p : Params) (m : List Byte) (hd : Word) (r : List Word × BitVec 10)
    (h : flexAlphaWords p m hd = .ok r) : m.length ≤ 252 ∧ r.1.length = flexAlphaCount m.length := by
  simp only [flexAlphaWords, bind_ok_iff, require_decide_ok_iff, Except.ok.injEq] at h
  obtain ⟨_, hm, ks, _, rfl⟩ := h
  exact ⟨hm, by simp [flexAlphaCount]⟩

/-- The word count of R233 is the least `W ≥ 2` with `3W - 4 ≥ L`. -/
theorem flexAlphaCount_least (l : Nat) :
    2 ≤ flexAlphaCount l ∧ l ≤ 3 * flexAlphaCount l - 4 ∧ ∀ w, 2 ≤ w → l ≤ 3 * w - 4 → flexAlphaCount l ≤ w := by
  unfold flexAlphaCount ceilDiv
  refine ⟨by omega, by omega, fun w h2 hl => by omega⟩

theorem interleave_length (c : List Word) : (interleave c).length = c.length * 32 :=
  flatMap_range_length _ 32 _ fun _ _ => List.length_map _

@[simp] theorem flexIdle_length (n : Nat) : (flexIdle n).length = n := by simp [flexIdle]

/-- All the frame words can be (R239): the capacity check, the two control words, and exactly 88 words. -/
theorem flexWords_ok_iff (a w : List Word) (p : Word) (vec : Nat → Nat → Except CmdError Word) (t : List Word) :
    flexWords a w p vec = .ok t ↔ 1 + 2 * a.length + w.length ≤ 88 ∧ ∃ biw v, biwDw p (a.length + 1) = .ok biw
      ∧ vec (2 * a.length + 1) w.length = .ok v
      ∧ t = [fcw biw] ++ a.map fcw ++ List.replicate a.length (fcw v) ++ w.map fcw
          ++ flexIdle (88 - ([fcw biw] ++ a.map fcw ++ List.replicate a.length (fcw v) ++ w.map fcw).length) := by
  simp only [flexWords, bind_ok_iff, require_decide_ok_iff, Except.ok.injEq]
  constructor
  · rintro ⟨_, h, biw, hb, v, hv, rfl⟩; exact ⟨h, biw, v, hb, hv, rfl⟩
  · rintro ⟨h, biw, v, hb, hv, rfl⟩; exact ⟨(), h, biw, hb, v, hv, rfl⟩

theorem flexWords_length (a w : List Word) (p : Word) (vec : Nat → Nat → Except CmdError Word) (t : List Word)
    (h : flexWords a w p vec = .ok t) : t.length = 88 := by
  obtain ⟨hc, biw, v, _, _, rfl⟩ := (flexWords_ok_iff a w p vec t).mp h
  simp only [List.length_append, List.length_map, List.length_replicate, List.length_cons, List.length_nil,
    flexIdle_length]
  omega

/-- A FLEX frame of 88 words has 2848 bits beside the two sync strings (R241). -/
theorem flexBits_length (p : Params) (t : List Word) (f : Word) (h : t.length = 88) :
    (flexBits p t f).length = p.flexSync1.length + 32 + p.flexSync2.length + 2816 := by
  rw [flexBits, List.length_append, flatMap_range_length _ _ 256]
  · simp only [List.length_append, bitsMsb_length]
  · intro k hk
    rw [interleave_length, chunk_length 8 k t (by omega)]

/-! ### GSC -/

/-- All the pager-ID decomposition can answer (R271, R272). -/
theorem gscPagerid_ok_iff (p : Params) (cap : Word) (r : Nat × Nat × Fin 10) :
    gscPagerid p cap = .ok r ↔ cap.toNat ≤ 999999
      ∧ gscIllegal p (10 * (decimalDigit cap.toNat 4).val + (decimalDigit cap.toNat 3).val)
          (decimalDigit cap.toNat 2, decimalDigit cap.toNat 1, decimalDigit cap.toNat 0) = false
      ∧ r = (10 * (decimalDigit cap.toNat 4).val + (decimalDigit cap.toNat 3).val,
          gscWord2Of p (decimalDigit cap.toNat 2, decimalDigit cap.toNat 1, decimalDigit cap.toNat 0),
          ⟨(cap.toNat / 100000 + (decimalDigit cap.toNat 3).val) % 10, Nat.mod_lt _ (by decide)⟩) := by
  simp only [gscPagerid, bind_ok_iff, require_ok_iff, decide_eq_true_iff, Bool.not_eq_true', Except.ok.injEq]
  exact ⟨fun ⟨_, h, _, hi, hr⟩ => ⟨h, hi, hr.symm⟩, fun ⟨h, hi, hr⟩ => ⟨(), h, (), hi, hr.symm⟩⟩

theorem gscAddr_ok_iff (p : Params) (cap : Word) (a : BitVec 23 × BitVec 23 × Fin 10) :
    gscAddr p cap = .ok a ↔ ∃ r, gscPagerid p cap = .ok r
      ∧ a = (gscAddressWord p r.1 (decide (50 ≤ r.1)), gscAddressWord p r.2.1 (decide (r.2.1 < 50)), r.2.2) := by
  simp only [gscAddr, bind_ok_iff, Except.ok.injEq]
  exact ⟨fun ⟨r, h, ha⟩ => ⟨r, h, ha.symm⟩, fun ⟨r, h, ha⟩ => ⟨r, h, ha.symm⟩⟩

theorem gscCodes_ok_iff (p : Params) (table : List (Byte × BitVec 7)) (m : List Byte) (q : List (BitVec 7)) :
    gscCodes p table m = .ok q ↔ ∃ ks : List (BitVec 7), m.map (tableMap table) = ks.map some
      ∧ q = ks ++ List.replicate (7 * ceilDiv m.length 7 - m.length) p.gscFill := by
  simp only [gscCodes, bind_ok_iff, encodeChars_ok_iff, Except.ok.injEq]
  exact ⟨fun ⟨ks, h, hw⟩ => ⟨ks, h, hw.symm⟩, fun ⟨ks, h, hw⟩ => ⟨ks, h, hw.symm⟩⟩

/-- The codes fill whole groups of seven (R278). -/
theorem gscCodes_length (p : Params) (table : List (Byte × BitVec 7)) (m : List Byte) (q : List (BitVec 7))
    (h : gscCodes p table m = .ok q) : q.length = 7 * ceilDiv m.length 7 := by
  obtain ⟨ks, hk, rfl⟩ := (gscCodes_ok_iff p table m q).mp h
  have hl : m.length = ks.length := by simpa using congrArg List.length hk
  have := ceilDiv_mul_ge m.length 7 (by decide)
  simp only [List.length_append, List.length_replicate]
  omega

@[simp] theorem alternating_length (b : Bool) (n : Nat) : (alternating b n).length = n := by simp [alternating]

theorem gscPreamble_length (p : Params) (k : Fin 10) : (gscPreamble p k).length = 828 := by
  simp [gscPreamble, repeatBits_length]

theorem gscStart_length (p : Params) : (gscStart p).length = 47 := by simp [gscStart]

/-- Each GSC block takes 121 bits (R282). -/
theorem gscBlocks_length (q : List (BitVec 7)) : (gscBlocks q).length = 121 * (q.length / 7) := by
  rw [gscBlocks, flatMap_range_length _ _ 121]
  intro k hk
  have hlen : (chunk 7 k q).length = 7 := chunk_length 7 k q (by omega)
  rw [List.length_cons, flatMap_bitsMsb_length]
  simp [gscBlock, hlen]

/-- The length of a GSC frame (R282). -/
theorem gscBits_length (p : Params) (a1 a2 : BitVec 23) (k : Fin 10) (q : List (BitVec 7)) :
    (gscBits p a1 a2 k q).length
      = p.gscCommaLead + 828 + 47 + 46 + 121 * (q.length / 7) + p.gscCommaTrail := by
  simp only [gscBits, gscCommaLead, gscCommaTrail, List.length_append, alternating_length, gscPreamble_length,
    gscStart_length, bitsMsb_length, gscBlocks_length]

end Sys2Proof.Machine
end

