-- ==== Sys2Proof/Laws/Flags.lean ====
section
/-! SUPPORT. STATUS and CTRL as words, bit by bit (10_state.md R25, R27): one lemma says once what each of them can
read as. -/

namespace Sys2Proof.Machine

/-- A bit of STATUS is a bit of the field it lies in; the reserved bits are 0. -/
theorem statusWord_getLsbD (s : State) (i : Nat) :
    s.statusWord.getLsbD i =
      if i < 4 then s.result.getLsbD i
      else if i < 8 then s.detail.getLsbD (i - 4)
      else if i < 16 then s.lastOp.getLsbD (i - 8)
      else if i = 16 then s.cfgOk
      else if i = 17 then s.fifoEmpty
      else if i = 19 then s.stickyErr
      else false := by
  have h : s.statusWord.getLsbD i = BitVec.getLsbD (w := 12 + 1 + 1 + 1 + 1 + 8 + 4 + 4)
      (0#12 ++ BitVec.ofBool s.stickyErr ++ 0#1 ++ BitVec.ofBool s.fifoEmpty ++ BitVec.ofBool s.cfgOk
        ++ s.lastOp ++ s.detail ++ s.result) i := rfl
  rw [h]
  simp only [BitVec.getLsbD_append, BitVec.getLsbD_ofBool, BitVec.getLsbD_zero]
  repeat' split
  all_goals first | rfl | omega | skip
  all_goals
    simp
    try omega

/-- A bit of CTRL is POL_INV at bit 0 and 0 elsewhere. -/
theorem ctrlWord_getLsbD (s : State) (i : Nat) : s.ctrlWord.getLsbD i = (decide (i = 0) && s.polInv) := by
  have h : s.ctrlWord.getLsbD i = BitVec.getLsbD (w := 31 + 1) (0#31 ++ BitVec.ofBool s.polInv) i := rfl
  rw [h]
  simp only [BitVec.getLsbD_append, BitVec.getLsbD_ofBool, BitVec.getLsbD_zero]
  split
  · simp
  · simp
    omega

end Sys2Proof.Machine
end

