-- ==== Sys2Proof/Laws/PerInstr.lean ====
section
/-! SUPPORT. What holds of every command as syntax, one lemma per constructor. -/

namespace Sys2Proof.Laws.EncodeWellFormed

/-- The command's word is well formed: its reserved bits are 0 and its opcode is assigned (R80, R81). -/
def Statement (i : Instr) : Prop := wordWellFormed (encode i) = true

theorem setrate : Statement .setrate := by unfold Statement; decide
theorem setpol : Statement .setpol := by unfold Statement; decide
theorem rev32 : Statement .rev32 := by unfold Statement; decide
theorem epar : Statement .epar := by unfold Statement; decide
theorem bch31 : Statement .bch31 := by unfold Statement; decide
theorem golay : Statement .golay := by unfold Statement; decide
theorem bch15 : Statement .bch15 := by unfold Statement; decide
theorem bvlit : Statement .bvlit := by unfold Statement; decide
theorem fxcsum : Statement .fxcsum := by unfold Statement; decide
theorem fxasum : Statement .fxasum := by unfold Statement; decide
theorem fxnsum : Statement .fxnsum := by unfold Statement; decide
theorem gscsum : Statement .gscsum := by unfold Statement; decide
theorem pushbit : Statement .pushbit := by unfold Statement; decide
theorem pushraw : Statement .pushraw := by unfold Statement; decide
theorem pushbv : Statement .pushbv := by unfold Statement; decide
theorem pop : Statement .pop := by unfold Statement; decide
theorem depth : Statement .depth := by unfold Statement; decide
theorem empty : Statement .empty := by unfold Statement; decide
theorem paddr : Statement .paddr := by unfold Statement; decide
theorem pmsgn : Statement .pmsgn := by unfold Statement; decide
theorem pmsga : Statement .pmsga := by unfold Statement; decide
theorem txpocn : Statement .txpocn := by unfold Statement; decide
theorem txpoca : Statement .txpoca := by unfold Statement; decide
theorem fsaddr : Statement .fsaddr := by unfold Statement; decide
theorem fcw : Statement .fcw := by unfold Statement; decide
theorem ffiw : Statement .ffiw := by unfold Statement; decide
theorem fbiw : Statement .fbiw := by unfold Statement; decide
theorem fvecn : Statement .fvecn := by unfold Statement; decide
theorem fveca : Statement .fveca := by unfold Statement; decide
theorem fmsgn : Statement .fmsgn := by unfold Statement; decide
theorem fmsga : Statement .fmsga := by unfold Statement; decide
theorem intlv : Statement .intlv := by unfold Statement; decide
theorem txflxn : Statement .txflxn := by unfold Statement; decide
theorem txflxa : Statement .txflxa := by unfold Statement; decide
theorem gpid : Statement .gpid := by unfold Statement; decide
theorem gaddr : Statement .gaddr := by unfold Statement; decide
theorem gblk : Statement .gblk := by unfold Statement; decide
theorem txgscn : Statement .txgscn := by unfold Statement; decide
theorem txgsca : Statement .txgsca := by unfold Statement; decide

end Sys2Proof.Laws.EncodeWellFormed
end

