-- ==== Sys2Proof/Tests/Slice0.lean ====
section
/-! SUPPORT. The model's own tests: the checks of WellFormed on ill-formed terms, every command's decoding from its word
written out bit by bit (30_encoding.md R80, R85), one or two steps of each command with the values of the worked
examples of the spec (the "Example" line of each command's rule and 95_test_vectors.md), and a witness of the
hypotheses of every statement that has some. -/

namespace Sys2Proof.Tests

open Sys2Proof Sys2Proof.Machine

-- One test after the other: side by side, each waiting for the kernel on a thread of its own, they take too much memory.
set_option Elab.async false

/-! ### WellFormed -/

/-- Illustrative parameters: those of 95_test_vectors.md, with the illegal-triple tables filled to their sizes. -/
def params : Params where
  fifoCap := 20000
  golayPoly := 0xC75#12
  flexSync1 := []
  flexSync2 := []
  flexSignature := .decided
  gscPreamble := Vector.ofFn fun k => BitVec.ofNat 12 k.val
  gscWord := Vector.ofFn fun k => BitVec.ofNat 12 (0x100 + k.val)
  gscIllLo := List.replicate 16 (0, 0, 0)
  gscIllHi := List.replicate 7 (9, 9, 8)
  gscWord2 := ⟨⟨(List.range 1000).map fun k => Fin.ofNat 100 (2 * k)⟩, by simp⟩
  gscNumMap := (List.range 10).map fun k => (BitVec.ofNat 8 (0x30 + k), BitVec.ofNat 7 k)
  gscAlphaMap := (List.range 0x40).map fun k => (BitVec.ofNat 8 (0x20 + k), BitVec.ofNat 7 (0x20 + k))
  gscFill := 0x20#7
  gscCommaLead := 8
  gscCommaTrail := 8

theorem test_params_wf : params.wf = true := by decide
theorem test_fifo_capacity_zero_refused : { params with fifoCap := 0 }.wf = false := by decide
theorem test_golay_generator_refused : { params with golayPoly := 0x117#12 }.wf = false := by decide
theorem test_illegal_low_without_zero_triple_refused :
    { params with gscIllLo := List.replicate 16 (0, 0, 1) }.wf = false := by decide
theorem test_illegal_low_short_refused : { params with gscIllLo := [(0, 0, 0)] }.wf = false := by decide
theorem test_illegal_high_short_refused : { params with gscIllHi := [] }.wf = false := by decide
theorem test_reserved_bits_refused : wordWellFormed 0x00000112#32 = false := by decide
theorem test_unassigned_opcodes_refused :
    wordWellFormed 0x00000000#32 = false ∧ wordWellFormed 0x000000FF#32 = false := by decide

/-! ### Decode: the words of R85, bit by bit -/

theorem test_decode_configuration :
    decode 0b00000000000000000000000000000001#32 = .ok .setrate
      ∧ decode 0b00000000000000000000000000000010#32 = .ok .setpol := by decide

theorem test_decode_primitives :
    decode 0b00000000000000000000000000010000#32 = .ok .rev32
      ∧ decode 0b00000000000000000000000000010001#32 = .ok .epar
      ∧ decode 0b00000000000000000000000000010010#32 = .ok .bch31
      ∧ decode 0b00000000000000000000000000010011#32 = .ok .golay
      ∧ decode 0b00000000000000000000000000010100#32 = .ok .bch15
      ∧ decode 0b00000000000000000000000000010101#32 = .ok .bvlit := by decide

theorem test_decode_checksums :
    decode 0b00000000000000000000000000100000#32 = .ok .fxcsum
      ∧ decode 0b00000000000000000000000000100001#32 = .ok .fxasum
      ∧ decode 0b00000000000000000000000000100010#32 = .ok .fxnsum
      ∧ decode 0b00000000000000000000000000100011#32 = .ok .gscsum := by decide

theorem test_decode_queue :
    decode 0b00000000000000000000000000110000#32 = .ok .pushbit
      ∧ decode 0b00000000000000000000000000110001#32 = .ok .pushraw
      ∧ decode 0b00000000000000000000000000110010#32 = .ok .pushbv
      ∧ decode 0b00000000000000000000000000110011#32 = .ok .pop
      ∧ decode 0b00000000000000000000000000110100#32 = .ok .depth
      ∧ decode 0b00000000000000000000000000110101#32 = .ok .empty := by decide

theorem test_decode_pocsag :
    decode 0b00000000000000000000000001000000#32 = .ok .paddr
      ∧ decode 0b00000000000000000000000001000001#32 = .ok .pmsgn
      ∧ decode 0b00000000000000000000000001000010#32 = .ok .pmsga
      ∧ decode 0b00000000000000000000000001000011#32 = .ok .txpocn
      ∧ decode 0b00000000000000000000000001000100#32 = .ok .txpoca := by decide

theorem test_decode_flex :
    decode 0b00000000000000000000000001010000#32 = .ok .fsaddr
      ∧ decode 0b00000000000000000000000001010001#32 = .ok .fcw
      ∧ decode 0b00000000000000000000000001010010#32 = .ok .ffiw
      ∧ decode 0b00000000000000000000000001010011#32 = .ok .fbiw
      ∧ decode 0b00000000000000000000000001010100#32 = .ok .fvecn
      ∧ decode 0b00000000000000000000000001010101#32 = .ok .fveca
      ∧ decode 0b00000000000000000000000001010110#32 = .ok .fmsgn
      ∧ decode 0b00000000000000000000000001010111#32 = .ok .fmsga
      ∧ decode 0b00000000000000000000000001011000#32 = .ok .intlv
      ∧ decode 0b00000000000000000000000001011001#32 = .ok .txflxn
      ∧ decode 0b00000000000000000000000001011010#32 = .ok .txflxa := by decide

theorem test_decode_gsc :
    decode 0b00000000000000000000000001100000#32 = .ok .gpid
      ∧ decode 0b00000000000000000000000001100001#32 = .ok .gaddr
      ∧ decode 0b00000000000000000000000001100010#32 = .ok .gblk
      ∧ decode 0b00000000000000000000000001100011#32 = .ok .txgscn
      ∧ decode 0b00000000000000000000000001100100#32 = .ok .txgsca := by decide

theorem test_decode_refused :
    decode 0x00000112#32 = .error .reservedBits ∧ decode 0x80000012#32 = .error .reservedBits
      ∧ decode 0x00000000#32 = .error .unassignedOpcode ∧ decode 0x000000FF#32 = .error .unassignedOpcode
      ∧ decode 0x00000065#32 = .error .unassignedOpcode := by decide

theorem test_decode_table_word : decodeTableWord 32 0x44 = some .txpoca ∧ decodeTableWord 32 0x112 = none := by decide

/-! ### Small states -/

/-- The state after reset and `SETRATE 1200, 1200` with the illustrative parameters (95_test_vectors.md). -/
def ready : State :=
  { State.reset with
    params := params, baud := 1200, symrate := 1200, repeatCount := 1, cfgOk := true }

/-- `s` with the operand registers from OP[0] on. -/
def withOps (s : State) (vs : List Word) : State := { s with op := Vector.ofFn fun k => vs.getD k.val 0 }

/-- `s` with the message `m` (the pseudo-instruction `msg`, R87). -/
def withMsg (s : State) (m : List Byte) : State :=
  { s with msg := Memory.writeList s.msg 0 m, msgLen := BitVec.ofNat 32 m.length }

/-- `s` with the word list `ws` (the pseudo-instruction `words`, R87). -/
def withWords (s : State) (ws : List Word) : State :=
  { s with wb := Memory.writeList s.wb 0 ws, wbLen := BitVec.ofNat 32 ws.length }

/-- `s` with the capcode list `cs` (the pseudo-instruction `caps`, R87). -/
def withCaps (s : State) (cs : List Word) : State :=
  { s with cap := Vector.ofFn fun k => cs.getD k.val 0, capCount := BitVec.ofNat 32 cs.length }

/-- `s` with a message of `n` bytes `c`. -/
def withRun (s : State) (n : Nat) (c : Byte) : State := withMsg s (List.replicate n c)

/-- What `f` sees of a next state. -/
def see {α : Type} (f : State → α) : Answer → Option α
  | .next t => some (f t)
  | .fault _ => none
  | .refused _ => none

/-- The message of the digits "12345". -/
def digits : List Byte := [0x31, 0x32, 0x33, 0x34, 0x35]

/-- The message "hello". -/
def hello : List Byte := [0x68, 0x65, 0x6C, 0x6C, 0x6F]

/-! ### Configuration and primitives (R100 to R107) -/

theorem test_setrate : see (fun t => (t.baud, t.symrate, t.repeatCount, t.statusWord))
    (exec .setrate (withOps State.reset [1200, 38400])) = some (1200, 38400, 32, 0x00030100#32) := by decide
theorem test_setrate_not_multiple : see (fun t => (t.baud, t.repeatCount, t.statusWord))
    (exec .setrate (withOps ready [1200, 1000])) = some (0, 0, 0x000A0123#32) := by decide
theorem test_setpol : see (fun t => t.ctrlWord) (exec .setpol (withOps ready [3])) = some 1#32 := by decide
theorem test_rev32 : see (fun t => t.res[0]) (exec .rev32 (withOps ready [0x12345678#32])) = some 0x1E6A2C48#32 := by
  decide +kernel
theorem test_epar : see (fun t => t.res[0]) (exec .epar (withOps ready [7])) = some 1#32 := by decide +kernel
theorem test_bch31 : see (fun t => t.res[0]) (exec .bch31 (withOps ready [0x7A89C000#32])) = some 0x7A89C197#32 := by
  decide +kernel
theorem test_golay : see (fun t => (t.res[0], t.res[1])) (exec .golay (withOps ready [713]))
    = some (0x164A03#32, 0x203#32) := by decide +kernel
theorem test_golay_other_generator :
    see (fun t => (t.res[0], t.res[1]))
      (exec .golay (withOps { ready with params := { params with golayPoly := 0xAE3#12 } } [713]))
      = some (0x164BF2#32, 0x3F2#32) := by decide +kernel
theorem test_bch15 : see (fun t => (t.res[0], t.res[1])) (exec .bch15 (withOps ready [1]))
    = some (0x1D1#32, 0xD1#32) := by decide +kernel
theorem test_bvlit : see (fun t => (t.bv, t.res[0])) (exec .bvlit (withMsg ready [0x31, 0x30, 0x20, 0x31]))
    = some ([true, false, true], 3#32) := by decide +kernel
theorem test_bvlit_other_character : see (fun t => (t.bv, t.result)) (exec .bvlit (withMsg ready [0x31, 0x78]))
    = some ([], 2#4) := by decide +kernel

/-! ### Checksums (R140 to R146) -/

theorem test_fxcsum : see (fun t => t.res[0]) (exec .fxcsum (withOps ready [0xFFFFFFFF#32])) = some 0x1FFFF2#32 := by
  decide +kernel
theorem test_fxasum : see (fun t => (t.res[0], Memory.read t.wb 0)) (exec .fxasum (withWords ready [0, 0x10A0FC#32]))
    = some (0x303#32, 0x303#32) := by decide +kernel
theorem test_fxnsum : see (fun t => (t.res[0], Memory.read t.wb 0))
    (exec .fxnsum (withWords ready [0x150C84#32, 0x199998#32])) = some (0x23#32, 0x150C86#32) := by decide +kernel
theorem test_gscsum : see (fun t => t.res[0]) (exec .gscsum (withWords ready [1, 2, 3, 4, 5, 6, 7]))
    = some 28#32 := by decide +kernel

/-! ### The FIFO (R162 to R168) -/

theorem test_pushbit : see (fun t => (t.fifo, t.res[0])) (exec .pushbit (withOps { ready with repeatCount := 4 } [1]))
    = some ([true, true, true, true], 4#32) := by decide +kernel
theorem test_pushbit_not_configured : see (fun t => (t.fifo, t.statusWord)) (exec .pushbit (withOps State.reset [1]))
    = some ([], 0x000A3013#32) := by decide +kernel
theorem test_pushraw : see (fun t => (t.fifo, t.res[0]))
    (exec .pushraw (withMsg (withOps { ready with repeatCount := 9 } [4]) [0xA5]))
    = some ([true, false, true, false], 4#32) := by decide +kernel
theorem test_pushbv : see (fun t => (t.fifo, t.res[0]))
    (exec .pushbv { ready with repeatCount := 2, bv := [true, false] })
    = some ([true, true, false, false], 4#32) := by decide +kernel
theorem test_pop : see (fun t => (Memory.readList t.out 3, t.fifo, t.res[0]))
    (exec .pop (withOps { ready with fifo := [true, false, false] } [2]))
    = some ([1, 0xFFFFFFFF#32, 0], [false], 2#32) := by decide +kernel
theorem test_pop_inverted : see (fun t => Memory.readList t.out 2)
    (exec .pop (withOps { ready with fifo := [true, false], polInv := true } [9]))
    = some [0xFFFFFFFF#32, 1] := by decide +kernel
theorem test_depth : see (fun t => t.res[0]) (exec .depth { ready with fifo := [true, true, true, true] })
    = some 4#32 := by decide +kernel
theorem test_empty : see (fun t => t.res[0]) (exec .empty ready) = some 1#32 := by decide +kernel

/-! ### POCSAG (R192 to R201) -/

theorem test_paddr : see (fun t => (t.res[0], t.res[1])) (exec .paddr (withOps ready [425321, 3]))
    = some (0x19F5BD6D#32, 1#32) := by decide +kernel
theorem test_paddr_last_capcode : see (fun t => (t.res[0], t.res[1])) (exec .paddr (withOps ready [0x1FFFFF#32, 3]))
    = some (0x7FFFF896#32, 7#32) := by decide +kernel
theorem test_pmsgn : see (fun t => (Memory.read t.wb 0, t.wbLen, t.res[0])) (exec .pmsgn (withMsg ready digits))
    = some (0xC261572C#32, 1#32, 1#32) := by decide +kernel
theorem test_pmsgn_fill : see (fun t => Memory.read t.wb 0) (exec .pmsgn (withMsg ready [0x30]))
    = some 0x81999B01#32 := by decide +kernel
theorem test_pmsga : see (fun t => (Memory.readList t.wb 3, t.wbLen)) (exec .pmsga (withMsg ready hello))
    = some ([0x8BA66BE0#32, 0xCDFB2765#32, 0x80000769#32], 3#32) := by decide +kernel
/-- The slots of TXPOCN's example: the address, the message and 14 idle words. -/
theorem test_txpocn : see (fun t => (t.fifo.drop 608, t.res[0], t.res[1]))
    (exec .txpocn (withMsg (withCaps ready [8]) [0x30]))
    = some (([0x000026EC#32, 0x81999B01#32] ++ List.replicate 14 0x7A89C197#32).flatMap bitsMsb, 1120#32, 1120#32) := by
  decide +kernel
/-- The sync word and the first slots of TXPOCA's example. -/
theorem test_txpoca : see (fun t => ((t.fifo.drop 576).take 224, t.res[0]))
    (exec .txpoca (withMsg (withCaps ready [425321]) hello))
    = some ([0x7CD215D8#32, 0x7A89C197#32, 0x7A89C197#32, 0x19F5BD6D#32, 0x8BA66BE0#32, 0xCDFB2765#32,
        0x80000769#32].flatMap bitsMsb, 1120#32) := by decide +kernel

/-! ### FLEX (R221 to R243) -/

theorem test_fsaddr : see (fun t => t.res[0]) (exec .fsaddr (withOps ready [32769])) = some 0x80010593#32 := by
  decide +kernel
theorem test_fsaddr_below : see (fun t => (t.res[0], t.statusWord)) (exec .fsaddr (withOps ready [32768]))
    = some (0, 0x000B5011#32) := by decide +kernel
theorem test_fcw : see (fun t => t.res[0]) (exec .fcw (withOps ready [0x10A0FC#32])) = some 0x3F0508E0#32 := by
  decide +kernel
theorem test_ffiw : see (fun t => (t.res[1], t.res[0])) (exec .ffiw (withOps ready [0x530]))
    = some (0x537#32, 0xECA0061A#32) := by decide +kernel
theorem test_fbiw : see (fun t => (t.res[1], t.res[0])) (exec .fbiw (withOps ready [0, 2]))
    = some (0x807#32, 0xE0100298#32) := by decide +kernel
theorem test_fvecn : see (fun t => (t.res[1], t.res[0])) (exec .fvecn (withOps ready [3, 2, 0x23]))
    = some (0x641B9#32, 0x9D8263AE#32) := by decide +kernel
theorem test_fveca : see (fun t => (t.res[1], t.res[0])) (exec .fveca (withOps ready [3, 2]))
    = some (0x81D9#32, 0x9B81048B#32) := by decide +kernel
theorem test_fmsgn : see (fun t => (Memory.readList t.wb 2, t.wbLen, t.res[1])) (exec .fmsgn (withMsg ready digits))
    = some ([0x150C86#32, 0x199998#32], 2#32, 0x23#32) := by decide +kernel
theorem test_fmsga : see (fun t => (Memory.readList t.wb 2, t.wbLen, t.res[1])) (exec .fmsga (withMsg ready [0x41, 0x42]))
    = some ([0x303#32, 0x10A0FC#32], 2#32, 0x303#32) := by decide +kernel
theorem test_fmsga_too_long : see (fun t => (t.result, t.detail)) (exec .fmsga (withRun ready 252 0x41))
    = some (1#4, 6#4) := by decide +kernel
theorem test_intlv : see (fun t => (t.fifo, t.res[0]))
    (exec .intlv (withWords ready [0x80000000#32, 0, 0, 0, 0, 0, 0, 1]))
    = some (true :: List.replicate 254 false ++ [true], 256#32) := by decide +kernel
/-- The first block of TXFLXN's example, interleaved, after the frame info word. -/
theorem test_txflxn : see (fun t => ((t.fifo.drop 32).take 256, t.res[0]))
    (exec .txflxn (withMsg (withCaps ready [32769, 1966080]) digits))
    = some (interleave [0xC03002AD#32, 0x80010593#32, 0x00007842#32, 0x1D4260A3#32, 0x1D4260A3#32, 0x6130AB96#32,
        0x1999982E#32, 0], 2848#32) := by decide +kernel
/-- The frame info word and the first block of TXFLXA's example. -/
theorem test_txflxa : see (fun t => (t.fifo.take 288, t.res[1]))
    (exec .txflxa (withMsg (withCaps ready [32769]) [0x41, 0x42]))
    = some (bitsMsb 0xF0000283#32 ++ interleave [0xE0100298#32, 0x80010593#32, 0x9B81048B#32, 0xC0C000B8#32,
        0x3F0508E0#32, 0, 0xFFFFFFFF#32, 0], 2848#32) := by decide +kernel

/-! ### GSC (R273 to R284) -/

theorem test_gpid : see (fun t => (t.res[0], t.res[1], t.res[2])) (exec .gpid (withOps ready [123456]))
    = some (23#32, 12#32, 4#32) := by decide +kernel
theorem test_gpid_illegal : see (fun t => t.statusWord) (exec .gpid (withOps ready [0])) = some 0x000B6041#32 := by
  decide +kernel
theorem test_gaddr : see (fun t => (t.res[0], t.res[1], t.res[2])) (exec .gaddr (withOps ready [123456]))
    = some (0x08BFC8#32, 0x779F8D#32, 4#32) := by decide +kernel
theorem test_gblk : see (fun t => (Memory.readList t.wb 8, t.wbLen, t.res[0]))
    (exec .gblk (withWords ready [1, 2, 3, 4, 5, 6, 7]))
    = some ([0x01D1, 0x0273, 0x03A2, 0x04E6, 0x0537, 0x0695, 0x0744, 0x1CC1], 8#32, 28#32) := by decide +kernel
theorem test_txgscn : see (fun t => (t.res[0], t.res[1]))
    (exec .txgscn (withMsg (withCaps ready [123456]) (digits ++ [0x36, 0x37, 0x38]))) = some (1179#32, 1179#32) := by
  decide +kernel
theorem test_txgsca : see (fun t => (t.fifo.take 12, t.res[0]))
    (exec .txgsca (withMsg (withCaps ready [123456]) [0x48, 0x45, 0x4C, 0x4C, 0x4F]))
    = some ([false, true, false, true, false, true, false, true, false, false, false, false], 1058#32) := by
  decide +kernel

/-! ### The host's side (R38, R39, R63, R81, R340) -/

theorem test_status_after_reset : State.reset.memRead 0x0001#16 = 0x00020000#32 := by decide
theorem test_step_runs_command : see (fun t => (t.res[0], t.pending))
    (step { withOps ready [0x7A89C000#32] with pending := [.write 0 0x12#32, .read 0x0010#16] })
    = some (0x7A89C197#32, [.read 0x0010#16]) := by decide +kernel
theorem test_fetch_word : see (fun t => (t.lastOp, t.result)) (step (State.reset.withFetchWord 32 0x44))
    = some (0x44#8, 3#4) := by decide
theorem test_step_illegal_command : see (fun t => t.statusWord) (step { ready with pending := [.write 0 0x112#32] })
    = some 0x000B1205#32 := by decide
theorem test_step_write_message_byte : see (fun t => t.memRead 0x01FF#16)
    (step { ready with pending := [.write 0x01FF#16 0xABCD#32] }) = some 0xCD#32 := by decide
theorem test_step_reset : see (fun t => (t.fifo, t.cfgOk, t.params.fifoCap))
    (step { ready with fifo := [true], pending := [.reset] }) = some ([], false, 20000) := by decide

/-! ### Witnesses: states and operands that meet the hypotheses of the statements, clause by clause -/

/-- `s` with FIFO capacity `n`. -/
def withCap (s : State) (n : Nat) : State := { s with params := { s.params with fifoCap := n } }

/-- `s` with a FIFO of `n` ones. -/
def withFifo (s : State) (n : Nat) : State := { s with fifo := List.replicate n true }

/-- The capacity has no part in the message. -/
theorem readList_withCap (s : State) (c n : Nat) : Memory.readList (withCap s c).msg n = Memory.readList s.msg n := rfl

/-- The message of `withMsg`. -/
theorem readList_withMsg (s : State) (m : List Byte) : Memory.readList (withMsg s m).msg m.length = m := by
  refine List.ext_getElem (Memory.readList_length _ _) fun i h1 h2 => ?_
  simp only [Memory.readList, List.getElem_map, List.getElem_range, withMsg, Memory.read_writeList]
  simp [h2]

/-- The message of `withRun`. -/
theorem readList_withRun (s : State) (n : Nat) (c : Byte) :
    Memory.readList (withRun s n c).msg n = List.replicate n c := by
  have h := readList_withMsg s (List.replicate n c)
  rw [List.length_replicate] at h
  exact h

theorem witness_StepRunsDecodedCommand :
    { ready with pending := [.write 0x0000#16 0x12#32] }.pending = .write 0x0000#16 0x12#32 :: []
      ∧ decode 0x12#32 = .ok .bch31 := by decide
theorem witness_IllegalCommandChangesOnlyStatus :
    { ready with pending := [.write 0x0000#16 0x112#32] }.pending = .write 0x0000#16 0x112#32 :: []
      ∧ (0x112#32).extractLsb' 8 24 ≠ 0 ∧ (0xFF#32).setWidth 8 ∉ assignedOpcodes ∧ 0x64#32 = encode .txgsca := by
  decide
theorem witness_HostReadHasNoSideEffect :
    { ready with pending := [.read 0x07FF#16] }.pending = .read 0x07FF#16 :: [] ∧ ready.fifo.length < 2 ^ 32
      ∧ { ready with bv := List.replicate 256 true }.bv.length ≤ 256 := by decide +kernel
theorem witness_UnmappedIndexReadsZeroIgnoresWrites :
    (∀ a ∈ [0x0017#16, 0x001F#16, 0x0028#16, 0x00FF#16, 0x0280#16, 0x03FF#16, 0x0800#16, 0xFFFF#16], unmapped a)
      ∧ (∀ a ∈ [0x0016#16, 0x0020#16, 0x0027#16, 0x0100#16, 0x01FF#16, 0x0200#16, 0x027F#16, 0x0400#16, 0x07FF#16],
          ¬ unmapped a)
      ∧ { ready with pending := [.read 0x0017#16] }.pending = .read 0x0017#16 :: []
      ∧ { ready with pending := [.write 0xFFFF#16 1#32] }.pending = .write 0xFFFF#16 1#32 :: [] := by
  simp [unmapped]
theorem witness_HostWriteStoresOrIsIgnored :
    (∀ r ∈ [Reg.msg 255, .wb 127, .cap 7, .op 0, .status, .out 1023], r ≠ .cmd)
      ∧ { ready with pending := [.write (regIndex (.msg 255)) 0x1FF#32] }.pending
          = .write (regIndex (.msg 255)) 0x1FF#32 :: [] := by decide
theorem witness_ResetRestoresStatedValues : { ready with pending := [.reset] }.pending = .reset :: [] := by decide
theorem witness_MachineNeverStops : ready.pending = [] := by decide
theorem witness_StepKeepsStateInvariant : ready.Inv ∧ step ready = .next ready := by
  refine ⟨⟨by decide, by decide, by decide, by decide, by decide, fun _ => .inl rfl, by decide⟩, rfl⟩
theorem witness_ParametersNeverChange : step ready = .next ready := rfl
theorem witness_FailingCommandChangesOnlyStatus :
    see (fun t => t.result != 0) (exec .setrate ready) = some true
      ∧ see (fun t => t.result != 0) (exec .gpid (withOps ready [1000000])) = some true := by decide +kernel
theorem witness_EveryCommandReportsInStatus :
    { ready with pending := [.read 0x0001#16] }.pending = .read 0x0001#16 :: []
      ∧ see (fun t => t.pending) (step { ready with pending := [.read 0x0001#16] }) = some [] := by decide
theorem witness_OnlyAppendersNeedConfiguration :
    State.reset.cfgOk = false ∧ .txgsca ∈ cfgGated ∧ .pop ∉ cfgGated
      ∧ see (fun t => t.result) (exec .pop State.reset) = some 0#4 := by decide
theorem witness_FifoChangesOnlyAtItsEnds :
    .pushbit ∈ cfgGated ∧ .depth ∉ cfgGated ∧ Instr.depth ≠ .pop
      ∧ see (fun t => t.result) (exec .pushbit (withFifo ready 3)) = some 0#4
      ∧ see (fun t => t.result) (exec .pop (withFifo ready 3)) = some 0#4
      ∧ see (fun t => t.result) (exec .depth (withFifo ready 3)) = some 0#4 := by decide +kernel
theorem witness_FifoHoldsSuffixOfAppends :
    HostAccess.reset ∉ { withOps (withFifo ready 3) [1] with
        pending := [.write 0 0x30#32, .write 0 0x33#32] }.pending
      ∧ see (fun t => t.fifo) (Host.Core.run Sys2Proof.core 2 { withOps (withFifo ready 3) [1] with
        pending := [.write 0 0x30#32, .write 0 0x33#32] }) = some [true, true, true] := by decide +kernel
theorem witness_CommandsWriteOnlyTheirState :
    .pmsgn ∈ wordBuilders ∧ .fxasum ∉ wordBuilders ∧ .rev32 ∉ secondResultWriters ∧ .pmsgn ∉ cfgGated
      ∧ see (fun t => (t.result, t.wbLen)) (exec .pmsgn (withMsg ready digits)) = some (0#4, 1#32)
      ∧ see (fun t => t.result) (exec .fxasum (withWords ready [1])) = some 0#4
      ∧ see (fun t => t.result) (exec .rev32 ready) = some 0#4
      ∧ see (fun t => t.result) (exec .setrate (withOps ready [1200, 38400])) = some 0#4
      ∧ see (fun t => t.result) (exec .setpol ready) = some 0#4 := by decide +kernel
theorem witness_SequencersIgnoreWordBuffer :
    .txpocn ∈ frameSequencers
      ∧ see (fun t => t.result) (exec .txpocn (withMsg (withCaps ready [8]) [0x30])) = some 0#4 := by decide +kernel
theorem witness_SetrateSetsOrClearsRates :
    ((1#32 ≠ 0) ∧ (1#32).toNat % (1#32).toNat = 0) ∧ (withOps ready [0, 1]).op[0] = 0 ∧ (withOps ready [1, 0]).op[1] = 0
      ∧ (withOps ready [2, 1]).op[1].toNat % (withOps ready [2, 1]).op[0].toNat ≠ 0
      ∧ (withOps ready [1, 0xFFFFFFFF#32]).op[1].toNat % (withOps ready [1, 0xFFFFFFFF#32]).op[0].toNat = 0 := by decide
theorem witness_GolayIsSystematicCodeword :
    ready.params.golayPolyOk = true ∧ { ready.params with golayPoly := 0xAE3#12 }.golayPolyOk = true := by decide
theorem witness_GolayComplementIsCodeword : (0xC75#12 = 0xC75#12 ∨ 0xC75#12 = 0xAE3#12) := by decide
theorem witness_BvlitBuildsBitVector :
    (∀ c ∈ Memory.readList (withRun ready 1 0x31).msg 1, c = 0x30#8 ∨ c = 0x31#8 ∨ c = 0x20#8)
      ∧ (∀ c ∈ Memory.readList (withRun ready 256 0x20).msg 256, c = 0x30#8 ∨ c = 0x31#8 ∨ c = 0x20#8)
      ∧ (withRun ready 1 0x31).msgLen.toNat = 1 ∧ (withRun ready 256 0x20).msgLen.toNat = 256
      ∧ (withRun ready 257 0x20).msgLen.toNat = 257 ∧ ready.msgLen.toNat = 0
      ∧ ∃ c ∈ Memory.readList (withRun ready 1 0x78).msg 1, c ≠ 0x30#8 ∧ c ≠ 0x31#8 ∧ c ≠ 0x20#8 := by
  simp only [readList_withRun]
  exact ⟨by simp, fun c h => by simp [List.eq_of_mem_replicate h], by decide +kernel, by decide +kernel,
    by decide +kernel, by decide, 0x78#8, by simp⟩
/-- The word counts of FXASUM and FXNSUM: 1 and 128 run, 0 and 129 are refused. -/
theorem witness_FxasumCompletesMessageChecksum_FxnsumCompletesMessageChecksum :
    (withWords ready [5]).wbLen.toNat = 1 ∧ { ready with wbLen := 128 }.wbLen.toNat = 128 ∧ ready.wbLen.toNat = 0
      ∧ { ready with wbLen := 129 }.wbLen.toNat = 129
      ∧ see (fun t => t.result) (exec .fxasum { ready with wbLen := 128 }) = some 0#4
      ∧ see (fun t => t.result) (exec .fxnsum { ready with wbLen := 129 }) = some 1#4 := by decide +kernel
theorem witness_PushbitAppendsRepeatedBit :
    ready.cfgOk = true
      ∧ (withCap (withFifo ready 2) 3).fifo.length + (withCap (withFifo ready 2) 3).repeatCount.toNat ≤ 3
      ∧ 3 < (withCap (withFifo ready 3) 3).fifo.length + (withCap (withFifo ready 3) 3).repeatCount.toNat := by decide
theorem witness_PushrawAppendsMessageBits :
    let s := withOps (withMsg ready [0xA5]) [8]
    s.cfgOk = true ∧ s.msgLen.toNat ≤ 256 ∧ 1 ≤ s.op[0].toNat ∧ s.op[0].toNat ≤ 8 * s.msgLen.toNat
      ∧ (withCap s 8).fifo.length + s.op[0].toNat ≤ (withCap s 8).params.fifoCap
      ∧ (withCap s 7).params.fifoCap < (withCap s 7).fifo.length + s.op[0].toNat
      ∧ 256 < { s with msgLen := 257 }.msgLen.toNat ∧ (withOps s [0]).op[0].toNat = 0
      ∧ 8 * s.msgLen.toNat < (withOps s [9]).op[0].toNat := by decide +kernel
theorem witness_PushbvAppendsRepeatedVector :
    let s := { ready with repeatCount := 3, bv := [true, false] }
    s.cfgOk = true ∧ (withCap s 6).fifo.length + s.bv.length * s.repeatCount.toNat ≤ (withCap s 6).params.fifoCap
      ∧ (withCap s 5).params.fifoCap < (withCap s 5).fifo.length + s.bv.length * s.repeatCount.toNat := by decide
theorem witness_PopDrainsOldestSymbols :
    1024 = min (min (withOps (withFifo ready 1025) [0xFFFFFFFF#32]).op[0].toNat
        (withOps (withFifo ready 1025) [0xFFFFFFFF#32]).fifo.length) 1024
      ∧ 0 = min (min ready.op[0].toNat ready.fifo.length) 1024 := by decide +kernel
theorem witness_DepthAndEmptyReportFifo : (withFifo ready 3).fifo.length < 2 ^ 32 := by decide
theorem witness_SplitPopsDrainAlike :
    1 + 1023 ≤ 1024
      ∧ see (fun t => t.res[0]) (exec .pop { withFifo ready 4 with
          op := ready.op.set 0 (BitVec.ofNat 32 1) }) = some 1#32
      ∧ see (fun t => t.res[0]) (exec .pop { withFifo ready 4 with
          op := ready.op.set 0 (BitVec.ofNat 32 (1 + 1023)) }) = some 4#32 := by decide +kernel
theorem witness_PaddrFormsAddressWord :
    (withOps ready [0x1FFFFF#32]).op[0].toNat ≤ 0x1FFFFF ∧ 0x1FFFFF < (withOps ready [0x200000#32]).op[0].toNat := by
  decide

/-- The lengths of a message: 1 and 256 pass, 0 and 257 are refused; a byte outside the maps is refused. -/
theorem witness_PmsgnPacksNumericWords_PmsgaPacksAlphaWords :
    ((withRun ready 1 0x55).msgLen.toNat = 1 ∧ (withRun ready 256 0x55).msgLen.toNat = 256 ∧ ready.msgLen.toNat = 0
        ∧ (withRun ready 257 0x55).msgLen.toNat = 257)
      ∧ (Memory.readList (withRun ready 256 0x55).msg 256).map numMap = (List.replicate 256 0xB#4).map some
      ∧ (∀ c ∈ Memory.readList (withRun ready 256 0x7F).msg 256, c.toNat ≤ 0x7F)
      ∧ ∃ c ∈ Memory.readList (withRun ready 1 0x80).msg 1, numMap c = none ∧ 0x7F < c.toNat := by
  simp only [readList_withRun]
  exact ⟨by decide +kernel, by decide +kernel, fun c h => by simp [List.eq_of_mem_replicate h], 0x80#8, by simp,
    by decide⟩

/-- A POCSAG page of one numeric character at the last capcode: 1664 bits, which fit exactly. -/
def pocsagState : State := withCap (withRun (withCaps ready [0x1FFFFF#32]) 1 0x30) 1664

theorem pocsagState_message : Memory.readList pocsagState.msg pocsagState.msgLen.toNat = [0x30#8] :=
  readList_withRun _ 1 _

theorem witness_TxpocnQueuesNumericPage_TxpocaQueuesAlphaPage :
    let s := pocsagState
    let m := Memory.readList s.msg s.msgLen.toNat
    (s.cfgOk = true ∧ s.capCount = 1 ∧ s.cap[0].toNat ≤ 0x1FFFFF ∧ 1 ≤ s.msgLen.toNat ∧ s.msgLen.toNat ≤ 256)
      ∧ m.map numMap = [0#4].map some ∧ (∀ c ∈ m, c.toNat ≤ 0x7F)
      ∧ s.fifo.length + (576 + 544 * ((2 * (s.cap[0].toNat % 8) + (s.msgLen.toNat + 4) / 5 + 2 + 15) / 16))
          * s.repeatCount.toNat ≤ s.params.fifoCap
      ∧ s.fifo.length + (576 + 544 * ((2 * (s.cap[0].toNat % 8) + (7 * (s.msgLen.toNat + 1) + 19) / 20 + 2 + 15) / 16))
          * s.repeatCount.toNat ≤ s.params.fifoCap := by
  simp only [pocsagState_message]
  exact ⟨by decide, by decide, by simp, by decide, by decide⟩
/-- Each clause of the POCSAG checks has a state that reaches it. -/
theorem witness_PocsagChecksComeInOrder :
    ∀ p ∈ [({ pocsagState with cfgOk := false }, 3#4, 1#4), ({ pocsagState with capCount := 0 }, 1#4, 5#4),
        ({ pocsagState with capCount := 2 }, 1#4, 5#4), (withCaps pocsagState [0x200000#32], 1#4, 1#4),
        ({ pocsagState with msgLen := 0 }, 1#4, 2#4), ({ pocsagState with msgLen := 257 }, 1#4, 2#4),
        (withRun pocsagState 1 0x80, 1#4, 3#4), (withCap pocsagState 1663, 6#4, 0#4)],
      see (fun t => (t.result, t.detail)) (exec .txpocn p.1) = some (p.2.1, p.2.2)
        ∧ see (fun t => (t.result, t.detail)) (exec .txpoca p.1) = some (p.2.1, p.2.2) := by decide +kernel

theorem witness_FcwAndFsaddrFormCodewords :
    32769 ≤ (withOps ready [32769]).op[0].toNat ∧ (withOps ready [1966080]).op[0].toNat ≤ 1966080
      ∧ (withOps ready [32768]).op[0].toNat < 32769 ∧ 1966080 < (withOps ready [1966081]).op[0].toNat := by decide
theorem witness_InfoWordsAreCheckedAndCoded :
    (withOps ready [0, 63]).op[1].toNat ≤ 63 ∧ 63 < (withOps ready [0, 64]).op[1].toNat := by decide
theorem witness_VectorWordsAreCheckedAndCoded :
    (let s := withOps ready [127, 8, 63];
      s.op[0].toNat ≤ 127 ∧ 1 ≤ s.op[1].toNat ∧ s.op[1].toNat ≤ 8 ∧ s.op[2].toNat ≤ 63)
      ∧ (let s := withOps ready [127, 127];
        s.op[0].toNat ≤ 127 ∧ 1 ≤ s.op[1].toNat ∧ s.op[1].toNat ≤ 127)
      ∧ 127 < (withOps ready [128, 1, 0]).op[0].toNat ∧ (withOps ready [0, 0, 0]).op[1].toNat = 0
      ∧ 8 < (withOps ready [0, 9, 0]).op[1].toNat ∧ 63 < (withOps ready [0, 1, 64]).op[2].toNat
      ∧ 127 < (withOps ready [0, 128]).op[1].toNat := by decide
theorem witness_FmsgnPacksNumericDatawords :
    ((withRun ready 41 0x55).msgLen.toNat = 41 ∧ 41 < (withRun ready 42 0x55).msgLen.toNat ∧ ready.msgLen.toNat = 0)
      ∧ (Memory.readList (withRun ready 41 0x55).msg 41).map numMap = (List.replicate 41 0xB#4).map some
      ∧ ∃ c ∈ Memory.readList (withRun ready 1 0x41).msg 1, numMap c = none := by
  simp only [readList_withRun]
  exact ⟨by decide +kernel, by decide +kernel, 0x41#8, by simp, by decide⟩
theorem witness_FmsgaPacksAlphaDatawords :
    ((withRun ready 251 0x7F).msgLen.toNat = 251 ∧ (withRun ready 252 0x7F).msgLen.toNat = 252
        ∧ 252 < (withRun ready 253 0x7F).msgLen.toNat ∧ (withRun ready 1 0x7F).msgLen.toNat = 1)
      ∧ (∀ c ∈ Memory.readList (withRun ready 252 0x7F).msg 252, c.toNat ≤ 0x7F)
      ∧ ∃ c ∈ Memory.readList (withRun ready 1 0x80).msg 1, 0x7F < c.toNat := by
  simp only [readList_withRun]
  exact ⟨by decide +kernel, fun c h => by simp [List.eq_of_mem_replicate h], 0x80#8, by simp, by decide⟩
theorem witness_IntlvAppendsColumns :
    let s := { ready with wbLen := 8 }
    s.cfgOk = true ∧ s.wbLen = 8 ∧ (withCap s 256).fifo.length + 256 * s.repeatCount.toNat ≤ (withCap s 256).params.fifoCap
      ∧ { s with wbLen := 7 }.wbLen ≠ 8
      ∧ (withCap s 255).params.fifoCap < (withCap s 255).fifo.length + 256 * s.repeatCount.toNat := by decide

/-- A FLEX page to eight addresses, the first and the last in range among them, of the longest numeric message; 2848
bits, which fit exactly. -/
def flexState : State :=
  withCap (withRun (withCaps ready [32769, 1966080, 100000, 100001, 100002, 100003, 100004, 100005]) 41 0x55) 2848

theorem witness_TxflxnQueuesNumericFrame :
    let s := flexState
    let caps := s.cap.toList.take s.capCount.toNat
    (s.cfgOk = true ∧ s.capCount.toNat = 8 ∧ s.msgLen.toNat = 41)
      ∧ (∀ a ∈ caps, 32769 ≤ a.toNat ∧ a.toNat ≤ 1966080)
      ∧ (Memory.readList s.msg s.msgLen.toNat).map numMap = (List.replicate 41 0xB#4).map some
      ∧ s.fifo.length + (s.params.flexSync1.length + 32 + s.params.flexSync2.length + 2816) * s.repeatCount.toNat
          ≤ s.params.fifoCap := by
  have hm : Memory.readList flexState.msg flexState.msgLen.toNat = List.replicate 41 0x55 := readList_withRun _ 41 _
  have hc : flexState.cap.toList.take flexState.capCount.toNat
      = [32769, 1966080, 100000, 100001, 100002, 100003, 100004, 100005] := by decide
  simp only [hm, hc]
  exact ⟨by decide, by simp, by decide +kernel, by decide⟩
/-- One address and 251 characters fill the 88 words exactly. -/
theorem witness_TxflxaQueuesAlphaFrame :
    let s := withCap (withRun (withCaps ready [32769]) 251 0x41) 2848
    let caps := s.cap.toList.take s.capCount.toNat
    (s.cfgOk = true ∧ s.capCount.toNat = 1 ∧ s.msgLen.toNat = 251)
      ∧ (∀ a ∈ caps, 32769 ≤ a.toNat ∧ a.toNat ≤ 1966080)
      ∧ (∀ c ∈ Memory.readList s.msg s.msgLen.toNat, c.toNat ≤ 0x7F)
      ∧ 1 + 2 * caps.length + max 2 ((s.msgLen.toNat + 4 + 2) / 3) ≤ 88
      ∧ s.fifo.length + (s.params.flexSync1.length + 32 + s.params.flexSync2.length + 2816) * s.repeatCount.toNat
          ≤ s.params.fifoCap := by
  intro s caps
  have hl : s.msgLen.toNat = 251 := by decide +kernel
  have hm : Memory.readList s.msg 251 = List.replicate 251 0x41 := (readList_withCap _ _ _).trans (readList_withRun _ _ _)
  have hc : caps = [32769] := by decide
  simp only [hl, hm, hc]
  exact ⟨by decide +kernel, by simp, fun c h => by simp [List.eq_of_mem_replicate h], by decide +kernel,
    by decide +kernel⟩
/-- Each clause of the FLEX checks has a state that reaches it. -/
theorem witness_FlexChecksComeInOrder :
    (∀ p ∈ [({ flexState with cfgOk := false }, 3#4, 1#4), ({ flexState with capCount := 0 }, 1#4, 5#4),
        ({ flexState with capCount := 9 }, 1#4, 5#4), (withCaps flexState [32769, 32768], 1#4, 1#4),
        (withCaps flexState [1966081], 1#4, 1#4), ({ flexState with msgLen := 0 }, 1#4, 2#4),
        (withRun flexState 42 0x55, 1#4, 2#4), (withRun flexState 1 0x41, 1#4, 3#4),
        (withCap flexState 2847, 6#4, 0#4)],
      see (fun t => (t.result, t.detail)) (exec .txflxn p.1) = some (p.2.1, p.2.2))
    ∧ ∀ p ∈ [(withRun flexState 253 0x41, 1#4, 2#4), (withRun flexState 1 0x80, 1#4, 3#4),
        (withRun (withCaps flexState [32769]) 252 0x41, 1#4, 6#4)],
      see (fun t => (t.result, t.detail)) (exec .txflxa p.1) = some (p.2.1, p.2.2) := by decide +kernel

/-- GPID and GADDR: the last lawful capcode, the first one too large, and illegal triples of both tables. -/
theorem witness_GpidDecomposesCapcode_GaddrFormsAddressWords :
    (withOps ready [999999]).op[0].toNat ≤ 999999 ∧ 999999 < (withOps ready [1000000]).op[0].toNat
      ∧ (decimalDigit 999999 2, decimalDigit 999999 1, decimalDigit 999999 0) ∉ ready.params.gscIllHi
      ∧ (decimalDigit 49000 2, decimalDigit 49000 1, decimalDigit 49000 0) ∈ ready.params.gscIllLo
      ∧ (decimalDigit 50998 2, decimalDigit 50998 1, decimalDigit 50998 0) ∈ ready.params.gscIllHi
      ∧ 49000 / 1000 % 100 < 50 ∧ ¬ 50998 / 1000 % 100 < 50 := by decide +kernel

/-- A GSC page of the last capcode and the longest message: 5414 bits, which fit exactly. -/
def gscState : State := withCap (withRun (withCaps ready [999999]) 256 0x39) 5414

theorem witness_TxgscQueuesPage :
    let s := gscState
    let m := Memory.readList s.msg s.msgLen.toNat
    (s.cfgOk = true ∧ s.capCount = 1 ∧ s.cap[0].toNat = 999999 ∧ s.msgLen.toNat = 256)
      ∧ (decimalDigit 999999 2, decimalDigit 999999 1, decimalDigit 999999 0)
          ∉ (if 999999 / 1000 % 100 < 50 then s.params.gscIllLo else s.params.gscIllHi)
      ∧ m.map (fun ch => (s.params.gscNumMap.find? fun e => e.1 == ch).map (·.2)) = (List.replicate 256 9#7).map some
      ∧ m.map (fun ch => (s.params.gscAlphaMap.find? fun e => e.1 == ch).map (·.2))
          = (List.replicate 256 0x39#7).map some
      ∧ s.fifo.length + (s.params.gscCommaLead + 828 + 47 + 46 + 121 * ((s.msgLen.toNat + 6) / 7)
          + s.params.gscCommaTrail) * s.repeatCount.toNat ≤ s.params.fifoCap := by
  have hl : gscState.msgLen.toNat = 256 := by decide +kernel
  have hm : Memory.readList gscState.msg 256 = List.replicate 256 0x39 :=
    (readList_withCap _ _ _).trans (readList_withRun _ _ _)
  simp only [hl, hm, List.map_replicate]
  refine ⟨by decide +kernel, by decide +kernel, ?_, ?_, by decide +kernel⟩ <;>
    exact congrArg (List.replicate 256) (by decide +kernel)
/-- Each clause of the GSC checks has a state that reaches it. -/
theorem witness_GscChecksComeInOrder :
    let s := withRun gscState 1 0x39
    ∀ p ∈ [({ s with cfgOk := false }, 3#4, 1#4), ({ s with capCount := 0 }, 1#4, 5#4),
        (withCaps s [1000000], 1#4, 1#4), (withCaps s [49000], 1#4, 4#4), ({ s with msgLen := 0 }, 1#4, 2#4),
        ({ s with msgLen := 257 }, 1#4, 2#4), (withRun s 1 0x80, 1#4, 3#4), (withCap s 1057, 6#4, 0#4)],
      see (fun t => (t.result, t.detail)) (exec .txgsca p.1) = some (p.2.1, p.2.2) := by decide +kernel

end Sys2Proof.Tests
end

section
/-! PROOF. The state after reset meets the state invariant: the build's parameters keep every constraint of R6 and
R272 by how `Config.params` is put together, whatever its opaque constants are, and a reset keeps the rest. -/

namespace Sys2Proof

/-! ### The parameters of the build at hand -/

theorem Config.params_fifoCapOk : Config.params.fifoCapOk = true :=
  decide_eq_true (Nat.le_add_left 1 Config.fifoCapLessOne)

/-- Both values of the open choice are generators R6 allows. -/
theorem Config.params_golayPolyOk : Config.params.golayPolyOk = true := by
  unfold Params.golayPolyOk Config.params
  cases Config.golayUsesAE3
  case false => rfl
  case true => rfl

/-- `(0, 0, 0)` heads the table, and the open rest has the 15 entries its type says. -/
theorem Config.params_illLoOk : Config.params.illLoOk = true := by
  have hlen : Config.params.gscIllLo.length = 16 := by simp [Config.params]
  have hmem : Config.params.gscIllLo.contains (0, 0, 0) = true := by simp [Config.params]
  simp only [Params.illLoOk, hlen, hmem, beq_self_eq_true, Bool.and_self]

theorem Config.params_illHiOk : Config.params.illHiOk = true := by
  have hlen : Config.params.gscIllHi.length = 7 := by simp [Config.params]
  simp only [Params.illHiOk, hlen, beq_self_eq_true]

/-- The parameters of the build are lawful for every value of its open constants (R6, R272). -/
theorem Config.params_wf : Config.params.wf = true := by
  simp only [Params.wf, Config.params_fifoCapOk, Config.params_golayPolyOk, Config.params_illLoOk,
    Config.params_illHiOk, Bool.and_self]

namespace Machine

/-- A reset asserted by the host (R340, R341) meets the invariant where the parameters are lawful: they are the one
part of it a reset does not set. -/
theorem State.hostReset_inv (s : State) (hp : s.params.wf = true) : s.hostReset.Inv where
  buffers := State.reset_buffers_wf
  fifo := Nat.zero_le _
  bv := Nat.zero_le _
  rates := ⟨rfl, rfl, rfl⟩
  status := ⟨List.mem_cons_self, fun hresult => absurd rfl hresult⟩
  outputs := fun k => .inl (Memory.read_nil k)
  params := hp

/-- The reset state is its own reset by the host. -/
theorem State.hostReset_reset : State.reset.hostReset = State.reset := rfl

/-- Settles O11: a reset meets the invariant where the parameters are lawful, and those of the build are. -/
theorem resetMeetsStateInvariant : Obligations.ResetMeetsStateInvariant := by
  unfold Obligations.ResetMeetsStateInvariant
  rw [← State.hostReset_reset]
  exact State.hostReset_inv State.reset Config.params_wf

end Machine
end Sys2Proof
end

section
/-! PROOF. The host's side: the register map is exact, a register read answers the named state, a write stores or
is ignored, and a reset sets every register to its stated value (R38, R39, R61 to R64). -/

namespace Sys2Proof.Machine

/-! ### The register map -/

/-- An index that names a register is that register's (R61): each branch of the map bounds the index. -/
theorem regIndex_of_regAt {a : RegAddr} {r : Reg} (h : regAt a = some r) : regIndex r = a := by
  apply BitVec.eq_of_toNat_eq
  simp only [regAt, dite_eq_iff, ite_eq_iff, Option.some.injEq] at h
  repeat' (obtain ⟨hn, rfl⟩ | ⟨_, h⟩ := h)
  all_goals
    simp only [regIndex, BitVec.toNat_ofNat, BitVec.reduceToNat]
    omega

/-- The index of a register names it (R61). -/
theorem regAt_regIndex (r : Reg) : regAt (regIndex r) = some r := by
  cases r with
  | op k | res k | cap k | msg k | wb k | out k =>
    simp (disch := omega) only [regAt, regIndex, BitVec.toNat_ofNat, Nat.mod_eq_of_lt, if_neg, dif_neg, dif_pos,
      Nat.add_sub_cancel_left]
  | _ => rfl

theorem regIndex_injective : Function.Injective regIndex := fun q r h =>
  Option.some.inj ((regAt_regIndex q).symm.trans (h ▸ regAt_regIndex r))

/-! ### Reads and writes at a register's index -/

@[simp] theorem memRead_regIndex (s : State) (r : Reg) : s.memRead (regIndex r) = s.readReg r := by
  rw [State.memRead, regAt_regIndex]

@[simp] theorem memWrite_regIndex (s : State) (r : Reg) (v : Word) : s.memWrite (regIndex r) v = s.writeReg r v := by
  rw [State.memWrite, regAt_regIndex]

/-- A host access to a register other than CMD is a write and no command (R39, R61). -/
theorem step_write_regIndex {s : State} {r : Reg} {v : Word} {rest : List HostAccess} (hr : r ≠ .cmd)
    (h : s.pending = .write (regIndex r) v :: rest) :
    step s = .next (State.writeReg { s with pending := rest } r v) := by
  have hcmd : regIndex r ≠ cmdAddr := fun he => hr (regIndex_injective he)
  simp only [step, h, if_neg hcmd, memWrite_regIndex]

theorem writeReg_of_not_hostWritable {r : Reg} (h : hostWritable r = false) (s : State) (v : Word) :
    s.writeReg r v = s := by
  cases r with
  | op | msgLen | capCount | wbLen | cap | msg | wb => cases h
  | _ => rfl

/-- A message byte read back: the low eight bits (R39). -/
theorem setWidth_byte (v : Word) : (v.setWidth 8).setWidth 32 = v &&& 0xFF#32 := by
  apply BitVec.eq_of_toNat_eq
  rw [BitVec.toNat_and, BitVec.toNat_setWidth_of_le (by decide), BitVec.toNat_setWidth]
  exact (Nat.and_two_pow_sub_one_eq_mod _ 8).symm

/-- A written register reads as what it stores (R39). -/
theorem readReg_writeReg_same {r : Reg} (h : hostWritable r = true) (s : State) (v : Word) :
    (s.writeReg r v).readReg r = storedValue r v := by
  cases r with
  | op k => exact Vector.getElem_set_self _
  | cap k => exact Vector.getElem_set_self _
  | msgLen | capCount | wbLen => rfl
  | wb k => simp [State.writeReg, State.readReg, storedValue, Memory.read_write]
  | msg k =>
    simp only [State.writeReg, State.readReg, storedValue, Memory.read_write, if_pos, setWidth_byte]
  | _ => cases h

/-- A write to one register leaves what every other register reads as. -/
theorem readReg_writeReg_ne {q r : Reg} (h : q ≠ r) (s : State) (v : Word) :
    (s.writeReg r v).readReg q = s.readReg q := by
  cases r with
  | op k =>
    cases q with
    | op j => exact Vector.getElem_set_ne k.isLt j.isLt (fun he => h (by rw [Fin.ext he]))
    | _ => rfl
  | cap k =>
    cases q with
    | cap j => exact Vector.getElem_set_ne k.isLt j.isLt (fun he => h (by rw [Fin.ext he]))
    | _ => rfl
  | msg k =>
    cases q with
    | msg j =>
      have hjk : j.val ≠ k.val := fun he => h (by rw [Fin.ext he])
      simp only [State.writeReg, State.readReg, Memory.read_write, if_neg hjk]
    | _ => rfl
  | wb k =>
    cases q with
    | wb j =>
      have hjk : j.val ≠ k.val := fun he => h (by rw [Fin.ext he])
      simp only [State.writeReg, State.readReg, Memory.read_write, if_neg hjk]
    | _ => rfl
  | msgLen =>
    cases q with
    | msgLen => exact absurd rfl h
    | _ => rfl
  | capCount =>
    cases q with
    | capCount => exact absurd rfl h
    | _ => rfl
  | wbLen =>
    cases q with
    | wbLen => exact absurd rfl h
    | _ => rfl
  | _ => rfl

/-- What every register reads as after a host write. -/
theorem readReg_writeReg (s : State) (q r : Reg) (v : Word) :
    (s.writeReg r v).readReg q = if q = r ∧ hostWritable r = true then storedValue r v else s.readReg q := by
  split
  next h =>
    obtain ⟨rfl, hw⟩ := h
    exact readReg_writeReg_same hw s v
  next h =>
    by_cases hq : q = r
    · have hw : hostWritable r = false := Bool.eq_false_iff.mpr fun hw => h ⟨hq, hw⟩
      rw [writeReg_of_not_hostWritable hw]
    · exact readReg_writeReg_ne hq s v

/-- What a host write leaves beside the registers. -/
theorem writeReg_frame (s : State) (r : Reg) (v : Word) :
    (s.writeReg r v).pending = s.pending ∧ (s.writeReg r v).readData = s.readData
      ∧ (s.writeReg r v).fifo = s.fifo ∧ (s.writeReg r v).bv = s.bv ∧ (s.writeReg r v).params = s.params := by
  cases r <;> exact ⟨rfl, rfl, rfl, rfl, rfl⟩

/-- Settles O8: read after write over the registers, and the frame of a write. -/
theorem hostWriteStoresOrIsIgnored : Obligations.HostWriteStoresOrIsIgnored := by
  refine ⟨fun s r v rest hr h => ?_, fun _ => rfl⟩
  obtain ⟨hpending, hread, hfifo, hbv, hparams⟩ := writeReg_frame { s with pending := rest } r v
  refine ⟨_, step_write_regIndex hr h, hpending, hread, hfifo, hbv, hparams, fun q => ?_⟩
  rw [memRead_regIndex, memRead_regIndex, readReg_writeReg]
  rfl

/-! ### Reset -/

/-- Every register reads 0 after reset but STATUS, in which FIFO_EMPTY is set (R38). -/
theorem readReg_reset (r : Reg) : State.reset.readReg r = if r = .status then 0x00020000#32 else 0 := by
  cases r with
  | op k => exact Vector.getElem_replicate _
  | res k => exact Vector.getElem_replicate _
  | cap k => exact Vector.getElem_replicate _
  | _ => rfl

/-- Settles O9: the map of the registers takes an index to the reset value of what it names. -/
theorem resetRestoresStatedValues : Obligations.ResetRestoresStatedValues := by
  refine ⟨fun a => ?_, rfl, rfl, fun s rest h => ?_⟩
  · cases ha : regAt a with
    | none =>
      have hne : a ≠ 0x0001#16 := by
        rintro rfl
        cases ha
      rw [if_neg hne, State.memRead, ha]
    | some r =>
      obtain rfl := regIndex_of_regAt ha
      rw [memRead_regIndex, readReg_reset]
      exact if_congr (regIndex_injective.eq_iff (b := .status)).symm rfl rfl
  · simp only [step, h]
    rfl

/-! ### What the registers read as -/

/-- A field of a register is what it holds bit by bit. -/
theorem extractLsb'_eq_of_getLsbD {n : Nat} {x : Word} {b : Nat} {y : BitVec n}
    (h : ∀ i < n, x.getLsbD (b + i) = y.getLsbD i) : x.extractLsb' b n = y := by
  apply BitVec.eq_of_getLsbD_eq
  intro i hi
  simpa [hi] using h i hi

/-- The fields of STATUS (R25). -/
theorem statusWord_fields (s : State) :
    s.statusWord.extractLsb' 0 4 = s.result ∧ s.statusWord.extractLsb' 4 4 = s.detail
      ∧ s.statusWord.extractLsb' 8 8 = s.lastOp ∧ s.statusWord.getLsbD 16 = s.cfgOk
      ∧ s.statusWord.getLsbD 17 = decide (s.fifo = []) ∧ s.statusWord.getLsbD 18 = false
      ∧ s.statusWord.getLsbD 19 = s.stickyErr ∧ s.statusWord.extractLsb' 20 12 = 0 := by
  have hempty : s.fifoEmpty = decide (s.fifo = []) := by
    rw [State.fifoEmpty, Bool.eq_iff_iff, List.isEmpty_iff, decide_eq_true_iff]
  refine ⟨extractLsb'_eq_of_getLsbD fun i hi => ?_, extractLsb'_eq_of_getLsbD fun i hi => ?_,
    extractLsb'_eq_of_getLsbD fun i hi => ?_, statusWord_getLsbD s 16, (statusWord_getLsbD s 17).trans hempty,
    statusWord_getLsbD s 18, statusWord_getLsbD s 19, extractLsb'_eq_of_getLsbD fun i hi => ?_⟩
  · simp (disch := omega) only [statusWord_getLsbD, if_pos, Nat.zero_add]
  · simp (disch := omega) only [statusWord_getLsbD, if_neg, if_pos, Nat.add_sub_cancel_left]
  · simp (disch := omega) only [statusWord_getLsbD, if_neg, if_pos, Nat.add_sub_cancel_left]
  · simp (disch := omega) only [statusWord_getLsbD, if_neg]
    exact BitVec.getLsbD_zero.symm

/-- The fields of CTRL (R27). -/
theorem ctrlWord_fields (s : State) : s.ctrlWord.getLsbD 0 = s.polInv ∧ s.ctrlWord.extractLsb' 1 31 = 0 := by
  refine ⟨ctrlWord_getLsbD s 0, extractLsb'_eq_of_getLsbD fun i hi => ?_⟩
  rw [ctrlWord_getLsbD, decide_eq_false (by omega), Bool.false_and]
  exact BitVec.getLsbD_zero.symm

theorem countWord_toNat {n : Nat} (h : n < 2 ^ 32) : (countWord n).toNat = n := by
  rw [countWord_of_lt n h]
  exact Nat.mod_eq_of_lt h

/-- Settles O6: a read is the value of the register its index names, field by field for STATUS and CTRL. -/
theorem hostReadHasNoSideEffect : Obligations.HostReadHasNoSideEffect := by
  refine ⟨fun s a rest h => by simp only [step, h], fun s => ?_⟩
  obtain ⟨hresult, hdetail, hlastOp, hcfgOk, hempty, hreserved, hsticky, hhigh⟩ := statusWord_fields s
  obtain ⟨hpolInv, hctrl⟩ := ctrlWord_fields s
  have hbv (h : s.bv.length ≤ 256) : (s.memRead 0x0007#16).toNat = s.bv.length :=
    Nat.mod_eq_of_lt (Nat.lt_of_le_of_lt h (by decide))
  exact ⟨rfl, hresult, hdetail, hlastOp, hcfgOk, hempty, hreserved, hsticky, hhigh, hpolInv, hctrl, rfl, rfl, rfl,
    countWord_toNat, hbv, fun k => memRead_regIndex s (.op k), fun k => memRead_regIndex s (.res k), rfl, rfl, rfl,
    fun k => memRead_regIndex s (.cap k), fun k => memRead_regIndex s (.msg k), fun k => memRead_regIndex s (.wb k),
    fun k => memRead_regIndex s (.out k)⟩

end Sys2Proof.Machine
end

section
/-! PROOF. What one command can do, said once for all 39: the kinds of state a completed command writes, what a
failed one leaves, and the inversion `ended_of_exec` that the rules over all commands rest on. -/

namespace Sys2Proof.Machine

/-! ### What a command may write -/

/-- The commands that write RES registers and nothing else beside the report (the "writes" column of R85). -/
def resultCommands : List Instr :=
  [.rev32, .epar, .bch31, .golay, .bch15, .fxcsum, .gscsum, .depth, .empty, .paddr, .fsaddr, .fcw, .ffiw, .fbiw,
   .fvecn, .fveca, .gpid, .gaddr]

/-- RES before and after the command `i` (R23, R85): RES[3] is no command's, RES[2] is GPID's and GADDR's, RES[1] is
that of the commands whose rules name it. -/
structure ResFrame (i : Instr) (r r' : Vector Word 4) : Prop where
  res3 : r'[3] = r[3]
  res2 : i ≠ .gpid → i ≠ .gaddr → r'[2] = r[2]
  res1 : i ∉ secondResultWriters → r'[1] = r[1]

section ResFrame

variable {i : Instr} {r r' : Vector Word 4}

theorem ResFrame.refl : ResFrame i r r := ⟨rfl, fun _ _ => rfl, fun _ => rfl⟩

theorem ResFrame.set0 (h : ResFrame i r r') (v : Word) : ResFrame i r (r'.set 0 v) := by
  obtain ⟨h3, h2, h1⟩ := h
  exact ⟨by simpa using h3, by simpa using h2, by simpa using h1⟩

theorem ResFrame.set1 (h : ResFrame i r r') (hi : i ∈ secondResultWriters) (v : Word) :
    ResFrame i r (r'.set 1 v) := by
  obtain ⟨h3, h2, _⟩ := h
  exact ⟨by simpa using h3, by simpa using h2, fun hn => absurd hi hn⟩

theorem ResFrame.set2 (h : ResFrame i r r') (hi : i = .gpid ∨ i = .gaddr) (v : Word) :
    ResFrame i r (r'.set 2 v) := by
  obtain ⟨h3, _, h1⟩ := h
  refine ⟨by simpa using h3, fun hp ha => ?_, by simpa using h1⟩
  exact hi.elim (absurd · hp) (absurd · ha)

end ResFrame

/-- What a command that completes leaves, before its report: one constructor for each kind of state a command owns. -/
inductive Completed (s : State) : Instr → State → Prop
  /-- Only RES is written. -/
  | results {i r} (hi : i ∈ resultCommands) (hr : ResFrame i s.res r) : Completed s i { s with res := r }
  /-- Symbols are appended to the FIFO, within its capacity (R160). -/
  | append {i r x} (hi : i ∈ cfgGated) (hr : ResFrame i s.res r)
      (hfits : s.fifo.length + x.length ≤ s.params.fifoCap) :
      Completed s i { s with res := r, fifo := s.fifo ++ x }
  /-- A word list is written from WB[0] on, and its length (R348). -/
  | words {i r ws} (hi : i ∈ wordBuilders) (hr : ResFrame i s.res r) (hlen : ws.length ≤ Config.wbMax) :
      Completed s i { s with res := r, wb := Memory.writeList s.wb 0 ws, wbLen := BitVec.ofNat 32 ws.length }
  /-- A message checksum is placed in WB[0] (R142, R144). -/
  | checksum {i r v} (hi : i = .fxasum ∨ i = .fxnsum) (hr : ResFrame i s.res r) :
      Completed s i { s with res := r, wb := Memory.write s.wb 0 v }
  /-- BVLIT writes BV (R107). -/
  | literal {r b} (hr : ResFrame .bvlit s.res r) (hlen : b.length ≤ Config.bvMax) :
      Completed s .bvlit { s with res := r, bv := b }
  /-- POP moves the oldest symbols from the FIFO to OUT (R165). -/
  | pop {r} (hr : ResFrame .pop s.res r) :
      Completed s .pop { s with res := r, fifo := s.fifo.drop s.popCount,
                                out := Memory.writeList s.out 0 ((s.fifo.take s.popCount).map (symbolOf s.polInv)) }
  /-- SETPOL writes POL_INV (R101). -/
  | polarity {b} : Completed s .setpol { s with polInv := b }
  /-- SETRATE accepts a pair of rates (R100). -/
  | rates (hbaud : s.op[0].toNat ≠ 0) (hsym : s.op[1].toNat ≠ 0) (hmul : s.op[1].toNat % s.op[0].toNat = 0) :
      Completed s .setrate { s with baud := s.op[0], symrate := s.op[1], cfgOk := true,
                                    repeatCount := BitVec.ofNat 32 (s.op[1].toNat / s.op[0].toNat) }

/-- What a command that fails leaves, before its report (R314): all as it was, but SETRATE clears the rates. -/
inductive Failed (s : State) : Instr → State → Prop
  | kept {i} (hi : i ≠ .setrate) : Failed s i s
  | cleared : Failed s .setrate s.clearRates

/-- What a command ends in (R312): a completed effect reported as such, or a failure with its error. -/
inductive Ended (s : State) (i : Instr) : State → Prop
  | ok {u} (h : Completed s i u) : Ended s i (u.endOk (opcode i))
  | error {u} (h : Failed s i u) (e : CmdError) : Ended s i (u.endError e (opcode i))

/-- A command given by its effect ends so when the effect, where it completes, does. -/
theorem Ended.of_effect {s : State} {i : Instr} {r : Except CmdError State} (hi : i ≠ .setrate)
    (h : ∀ u, r = .ok u → Completed s i u) : Ended s i (s.endCommand (opcode i) r) := by
  cases r with
  | ok u => exact .ok (h u rfl)
  | error e => exact .error (.kept hi) e

/-! ### The effects, one lemma each -/

section Effects

variable {s u : State}

/-- One result in RES[0]. -/
theorem setRes_completed {i : Instr} (hi : i ∈ resultCommands) (v : Word) : Completed s i (s.setRes 0 v) :=
  .results hi (.set0 .refl _)

/-- A result in RES[0] and a second one in RES[1]. -/
theorem setRes_setRes_completed {i : Instr} (hi : i ∈ resultCommands) (h1 : i ∈ secondResultWriters) (v w : Word) :
    Completed s i ((s.setRes 0 v).setRes 1 w) :=
  .results hi (.set1 (.set0 .refl _) h1 _)

/-- A control word goes to RES[1] and its codeword to RES[0]. -/
theorem setControlWord_completed {i : Instr} (hi : i ∈ resultCommands) (h1 : i ∈ secondResultWriters) (d : Word) :
    Completed s i (s.setControlWord d) :=
  .results hi (.set0 (.set1 .refl h1 _) _)

theorem bch31Effect_completed (h : bch31Effect s = .ok u) : Completed s .bch31 u := by
  simp only [bch31Effect, bind_ok_iff, Except.ok.injEq] at h
  obtain ⟨_, _, rfl⟩ := h
  exact setRes_completed (by decide) _

theorem fsaddrEffect_completed (h : fsaddrEffect s = .ok u) : Completed s .fsaddr u := by
  simp only [fsaddrEffect, bind_ok_iff, Except.ok.injEq] at h
  obtain ⟨_, _, rfl⟩ := h
  exact setRes_completed (by decide) _

theorem paddrEffect_completed (h : paddrEffect s = .ok u) : Completed s .paddr u := by
  simp only [paddrEffect, bind_ok_iff, Except.ok.injEq] at h
  obtain ⟨_, _, rfl⟩ := h
  exact setRes_setRes_completed (by decide) (by decide) _ _

theorem fbiwEffect_completed (h : fbiwEffect s = .ok u) : Completed s .fbiw u := by
  simp only [fbiwEffect, bind_ok_iff, Except.ok.injEq] at h
  obtain ⟨_, _, rfl⟩ := h
  exact setControlWord_completed (by decide) (by decide) _

theorem fvecnEffect_completed (h : fvecnEffect s = .ok u) : Completed s .fvecn u := by
  simp only [fvecnEffect, bind_ok_iff, Except.ok.injEq] at h
  obtain ⟨_, _, rfl⟩ := h
  exact setControlWord_completed (by decide) (by decide) _

theorem fvecaEffect_completed (h : fvecaEffect s = .ok u) : Completed s .fveca u := by
  simp only [fvecaEffect, bind_ok_iff, Except.ok.injEq] at h
  obtain ⟨_, _, rfl⟩ := h
  exact setControlWord_completed (by decide) (by decide) _

theorem gpidEffect_completed (h : gpidEffect s = .ok u) : Completed s .gpid u := by
  simp only [gpidEffect, bind_ok_iff, Except.ok.injEq] at h
  obtain ⟨_, _, rfl⟩ := h
  exact .results (by decide) (.set2 (.set1 (.set0 .refl _) (by decide) _) (.inl rfl) _)

theorem gaddrEffect_completed (h : gaddrEffect s = .ok u) : Completed s .gaddr u := by
  simp only [gaddrEffect, bind_ok_iff, Except.ok.injEq] at h
  obtain ⟨_, _, rfl⟩ := h
  exact .results (by decide) (.set2 (.set1 (.set0 .refl _) (by decide) _) (.inr rfl) _)

theorem fxasumEffect_completed (h : fxasumEffect s = .ok u) : Completed s .fxasum u := by
  simp only [fxasumEffect, bind_ok_iff, Except.ok.injEq] at h
  obtain ⟨_, _, rfl⟩ := h
  exact .checksum (.inl rfl) (.set0 .refl _)

theorem fxnsumEffect_completed (h : fxnsumEffect s = .ok u) : Completed s .fxnsum u := by
  simp only [fxnsumEffect, bind_ok_iff, Except.ok.injEq] at h
  obtain ⟨_, _, rfl⟩ := h
  exact .checksum (.inr rfl) (.set0 .refl _)

/-- A literal has at most as many bits as characters (R107). -/
theorem literalBits_length {m : List Byte} {b : List Bool} (h : literalBits m = .ok b) : b.length ≤ m.length := by
  induction m generalizing b with
  | nil => cases h; exact Nat.le_refl 0
  | cons c m ih =>
    have hmap (x : Bool) (hx : (literalBits m).map (x :: ·) = .ok b) : b.length ≤ (c :: m).length := by
      cases hm : literalBits m with
      | error e => rw [hm] at hx; cases hx
      | ok b' => rw [hm] at hx; cases hx; exact Nat.succ_le_succ (ih hm)
    rw [literalBits] at h
    split at h
    · exact hmap _ h
    · split at h
      · exact hmap _ h
      · split at h
        · exact Nat.le_succ_of_le (ih h)
        · cases h

theorem bvlitEffect_completed (h : bvlitEffect s = .ok u) : Completed s .bvlit u := by
  simp only [bvlitEffect, bind_ok_iff, Except.ok.injEq] at h
  obtain ⟨m, hm, b, hb, rfl⟩ := h
  exact .literal (.set0 .refl _) (Nat.le_trans (literalBits_length hb) (message_length s m hm).2)

/-- An append of repeated bits fits when the count of its symbols does. -/
theorem pushBits_completed {i : Instr} (hi : i ∈ cfgGated) {x : List Bool} (h : s.pushBits x = .ok u) :
    Completed s i u := by
  obtain ⟨hfits, rfl⟩ := (pushBits_ok_iff s x u).mp h
  exact .append hi (.set0 .refl _) (by rwa [repeatBits_length])

theorem queueFrame_completed {i : Instr} (hi : i ∈ cfgGated) (h1 : i ∈ secondResultWriters) {x : List Bool}
    (h : s.queueFrame x = .ok u) : Completed s i u := by
  obtain ⟨hfits, rfl⟩ := (queueFrame_ok_iff s x u).mp h
  exact .append hi (.set0 (.set1 .refl h1 _) _) (by rwa [repeatBits_length])

theorem pushbitEffect_completed (h : pushbitEffect s = .ok u) : Completed s .pushbit u := by
  simp only [pushbitEffect, bind_ok_iff] at h
  obtain ⟨_, _, hpush⟩ := h
  exact pushBits_completed (by decide) hpush

theorem pushbvEffect_completed (h : pushbvEffect s = .ok u) : Completed s .pushbv u := by
  simp only [pushbvEffect, bind_ok_iff] at h
  obtain ⟨_, _, hpush⟩ := h
  exact pushBits_completed (by decide) hpush

theorem intlvEffect_completed (h : intlvEffect s = .ok u) : Completed s .intlv u := by
  simp only [intlvEffect, bind_ok_iff] at h
  obtain ⟨_, _, _, _, hpush⟩ := h
  exact pushBits_completed (by decide) hpush

theorem pushrawEffect_completed (h : pushrawEffect s = .ok u) : Completed s .pushraw u := by
  simp only [pushrawEffect, State.fifoAppendRaw, bind_ok_iff, appendSymbols_ok_iff, Except.ok.injEq] at h
  obtain ⟨_, _, _, _, _, ⟨hfits, rfl⟩, rfl⟩ := h
  exact .append (by decide) (.set0 .refl _) (by rwa [repeatBits_length])

theorem pocsagFrameEffect_completed {i : Instr} (hi : i ∈ cfgGated) (h1 : i ∈ secondResultWriters) {fb : BitVec 2}
    {build : List Byte → Except CmdError (List Word)} (h : pocsagFrameEffect fb build s = .ok u) :
    Completed s i u := by
  simp only [pocsagFrameEffect, bind_ok_iff] at h
  obtain ⟨_, _, _, _, _, _, _, _, _, _, hqueue⟩ := h
  exact queueFrame_completed hi h1 hqueue

theorem txflxnEffect_completed (h : txflxnEffect s = .ok u) : Completed s .txflxn u := by
  simp only [txflxnEffect, bind_ok_iff] at h
  obtain ⟨_, _, _, _, _, _, _, _, _, _, _, _, hqueue⟩ := h
  exact queueFrame_completed (by decide) (by decide) hqueue

theorem txflxaEffect_completed (h : txflxaEffect s = .ok u) : Completed s .txflxa u := by
  simp only [txflxaEffect, bind_ok_iff] at h
  obtain ⟨_, _, _, _, _, _, _, _, _, _, _, _, hqueue⟩ := h
  exact queueFrame_completed (by decide) (by decide) hqueue

theorem gscFrameEffect_completed {i : Instr} (hi : i ∈ cfgGated) (h1 : i ∈ secondResultWriters)
    {table : List (Byte × BitVec 7)} (h : gscFrameEffect table s = .ok u) : Completed s i u := by
  simp only [gscFrameEffect, bind_ok_iff] at h
  obtain ⟨_, _, _, _, _, _, _, _, _, _, hqueue⟩ := h
  exact queueFrame_completed hi h1 hqueue

theorem pocsagMessageEffect_completed {i : Instr} (hi : i ∈ wordBuilders)
    {build : List Byte → Except CmdError (List Word)} (h : pocsagMessageEffect build s = .ok u) :
    Completed s i u := by
  simp only [pocsagMessageEffect, bind_ok_iff, require_decide_ok_iff, Except.ok.injEq] at h
  obtain ⟨_, _, _, _, _, hlen, rfl⟩ := h
  exact .words hi (.set0 .refl _) hlen

/-- At most 41 digits make at most 8 words (R231), so the numeric message needs no check of its own. -/
theorem fmsgnEffect_completed (h : fmsgnEffect s = .ok u) : Completed s .fmsgn u := by
  simp only [fmsgnEffect, bind_ok_iff, Except.ok.injEq] at h
  obtain ⟨m, _, ws, hws, rfl⟩ := h
  obtain ⟨hm, hcount⟩ := flexNumWords_length m ws hws
  have hlen : ws.1.length ≤ Config.wbMax := by
    rw [hcount, ceilDiv, Config.wbMax]
    omega
  exact .words (by decide) (.set1 (.set0 .refl _) (by decide) _) hlen

theorem fmsgaEffect_completed (h : fmsgaEffect s = .ok u) : Completed s .fmsga u := by
  simp only [fmsgaEffect, bind_ok_iff, require_decide_ok_iff, Except.ok.injEq] at h
  obtain ⟨_, _, _, _, _, hcount, rfl⟩ := h
  exact .words (by decide) (.set1 (.set0 .refl _) (by decide) _) (Nat.le_trans hcount (by decide))

/-- GBLK writes the eight codewords of one block (R277). -/
theorem gblk_completed (v : Word) :
    Completed s .gblk ((s.setWords ((gscBlock s.units).map fun h => h.setWidth 32)).setRes 0 v) :=
  .words (by decide) (.set0 .refl _) (by simp [gscBlock, units_length, Config.wbMax])

theorem execSetrate_ended : ∃ t, exec .setrate s = .next t ∧ Ended s .setrate t := by
  refine ⟨_, rfl, ?_⟩
  split
  next => exact .error .cleared _
  next hzero =>
    obtain ⟨hbaud, hsym⟩ := not_or.mp hzero
    split
    next => exact .error .cleared _
    next hmul => exact .ok (.rates hbaud hsym (not_not.mp hmul))

end Effects

/-! ### Every command -/

/-- Every command ends, and in one of the ways of `Ended`: all that the rules over all commands rest on. -/
theorem exec_ended (i : Instr) (s : State) : ∃ t, exec i s = .next t ∧ Ended s i t := by
  cases i with
  | setrate => exact execSetrate_ended
  | setpol => exact ⟨_, rfl, .ok .polarity⟩
  | rev32 => exact ⟨_, rfl, .ok (setRes_completed (by decide) _)⟩
  | epar => exact ⟨_, rfl, .ok (setRes_completed (by decide) _)⟩
  | bch31 => exact ⟨_, rfl, .of_effect (by decide) fun _ => bch31Effect_completed⟩
  | golay => exact ⟨_, rfl, .ok (setRes_setRes_completed (by decide) (by decide) _ _)⟩
  | bch15 => exact ⟨_, rfl, .ok (setRes_setRes_completed (by decide) (by decide) _ _)⟩
  | bvlit => exact ⟨_, rfl, .of_effect (by decide) fun _ => bvlitEffect_completed⟩
  | fxcsum => exact ⟨_, rfl, .ok (setRes_completed (by decide) _)⟩
  | fxasum => exact ⟨_, rfl, .of_effect (by decide) fun _ => fxasumEffect_completed⟩
  | fxnsum => exact ⟨_, rfl, .of_effect (by decide) fun _ => fxnsumEffect_completed⟩
  | gscsum => exact ⟨_, rfl, .ok (setRes_completed (by decide) _)⟩
  | pushbit => exact ⟨_, rfl, .of_effect (by decide) fun _ => pushbitEffect_completed⟩
  | pushraw => exact ⟨_, rfl, .of_effect (by decide) fun _ => pushrawEffect_completed⟩
  | pushbv => exact ⟨_, rfl, .of_effect (by decide) fun _ => pushbvEffect_completed⟩
  | pop => exact ⟨_, rfl, .ok (.pop (.set0 .refl _))⟩
  | depth => exact ⟨_, rfl, .ok (setRes_completed (by decide) _)⟩
  | empty => exact ⟨_, rfl, .ok (setRes_completed (by decide) _)⟩
  | paddr => exact ⟨_, rfl, .of_effect (by decide) fun _ => paddrEffect_completed⟩
  | pmsgn => exact ⟨_, rfl, .of_effect (by decide) fun _ => pocsagMessageEffect_completed (by decide)⟩
  | pmsga => exact ⟨_, rfl, .of_effect (by decide) fun _ => pocsagMessageEffect_completed (by decide)⟩
  | txpocn => exact ⟨_, rfl, .of_effect (by decide) fun _ => pocsagFrameEffect_completed (by decide) (by decide)⟩
  | txpoca => exact ⟨_, rfl, .of_effect (by decide) fun _ => pocsagFrameEffect_completed (by decide) (by decide)⟩
  | fsaddr => exact ⟨_, rfl, .of_effect (by decide) fun _ => fsaddrEffect_completed⟩
  | fcw => exact ⟨_, rfl, .ok (setRes_completed (by decide) _)⟩
  | ffiw => exact ⟨_, rfl, .ok (setControlWord_completed (by decide) (by decide) _)⟩
  | fbiw => exact ⟨_, rfl, .of_effect (by decide) fun _ => fbiwEffect_completed⟩
  | fvecn => exact ⟨_, rfl, .of_effect (by decide) fun _ => fvecnEffect_completed⟩
  | fveca => exact ⟨_, rfl, .of_effect (by decide) fun _ => fvecaEffect_completed⟩
  | fmsgn => exact ⟨_, rfl, .of_effect (by decide) fun _ => fmsgnEffect_completed⟩
  | fmsga => exact ⟨_, rfl, .of_effect (by decide) fun _ => fmsgaEffect_completed⟩
  | intlv => exact ⟨_, rfl, .of_effect (by decide) fun _ => intlvEffect_completed⟩
  | txflxn => exact ⟨_, rfl, .of_effect (by decide) fun _ => txflxnEffect_completed⟩
  | txflxa => exact ⟨_, rfl, .of_effect (by decide) fun _ => txflxaEffect_completed⟩
  | gpid => exact ⟨_, rfl, .of_effect (by decide) fun _ => gpidEffect_completed⟩
  | gaddr => exact ⟨_, rfl, .of_effect (by decide) fun _ => gaddrEffect_completed⟩
  | gblk => exact ⟨_, rfl, .ok (gblk_completed _)⟩
  | txgscn => exact ⟨_, rfl, .of_effect (by decide) fun _ => gscFrameEffect_completed (by decide) (by decide)⟩
  | txgsca => exact ⟨_, rfl, .of_effect (by decide) fun _ => gscFrameEffect_completed (by decide) (by decide)⟩

/-- The inversion of `exec`: what a command answered is one of its ends. -/
theorem ended_of_exec {i : Instr} {s t : State} (h : exec i s = .next t) : Ended s i t := by
  obtain ⟨t', heq, hended⟩ := exec_ended i s
  obtain rfl : t' = t := Host.Outcome.next.inj (heq.symm.trans h)
  exact hended

end Sys2Proof.Machine
end

section
/-! PROOF. What a command leaves as it was, and what the FIFO becomes. -/

namespace Sys2Proof.Machine

section

variable {s u t : State} {i : Instr}

/-! ### What a completed effect leaves as it was -/

theorem Completed.res_frame (h : Completed s i u) : ResFrame i s.res u.res := by
  cases h with
  | polarity => exact .refl
  | rates => exact .refl
  | results _ hr => exact hr
  | append _ hr => exact hr
  | words _ hr => exact hr
  | checksum _ hr => exact hr
  | literal hr => exact hr
  | pop hr => exact hr

theorem Completed.stickyErr_eq (h : Completed s i u) : u.stickyErr = s.stickyErr := by cases h <;> rfl

/-- The operands are the host's: a command reads them only (R22, R30, R31, R39). -/
theorem Completed.inputs_eq (h : Completed s i u) :
    u.op = s.op ∧ u.msg = s.msg ∧ u.msgLen = s.msgLen ∧ u.cap = s.cap ∧ u.capCount = s.capCount
      ∧ u.params = s.params ∧ u.pending = s.pending ∧ u.readData = s.readData := by
  cases h <;> exact ⟨rfl, rfl, rfl, rfl, rfl, rfl, rfl, rfl⟩

theorem Completed.res_eq_of_config (h : Completed s i u) (hi : i = .setrate ∨ i = .setpol) : u.res = s.res := by
  have hnot : i ∉ resultCommands ∧ i ∉ cfgGated ∧ i ∉ wordBuilders := by
    rcases hi with rfl | rfl <;> decide
  obtain ⟨hres, happ, hwords⟩ := hnot
  cases h with
  | polarity => rfl
  | rates => rfl
  | results hc => exact absurd hc hres
  | append hc => exact absurd hc happ
  | words hc => exact absurd hc hwords
  | checksum hc => rcases hc with rfl | rfl <;> simp at hi
  | literal => simp at hi
  | pop => simp at hi

theorem Completed.polInv_eq (h : Completed s i u) (hi : i ≠ .setpol) : u.polInv = s.polInv := by
  cases h with
  | polarity => exact absurd rfl hi
  | _ => rfl

theorem Completed.rates_eq (h : Completed s i u) (hi : i ≠ .setrate) :
    u.baud = s.baud ∧ u.symrate = s.symrate ∧ u.repeatCount = s.repeatCount ∧ u.cfgOk = s.cfgOk := by
  cases h with
  | rates => exact absurd rfl hi
  | _ => exact ⟨rfl, rfl, rfl, rfl⟩

theorem Completed.out_eq (h : Completed s i u) (hi : i ≠ .pop) : u.out = s.out := by
  cases h with
  | pop => exact absurd rfl hi
  | _ => rfl

theorem Completed.bv_eq (h : Completed s i u) (hi : i ≠ .bvlit) : u.bv = s.bv := by
  cases h with
  | literal => exact absurd rfl hi
  | _ => rfl

theorem Completed.fifo_eq (h : Completed s i u) (hi : i ∉ cfgGated) (hpop : i ≠ .pop) : u.fifo = s.fifo := by
  cases h with
  | append hc => exact absurd hc hi
  | pop => exact absurd rfl hpop
  | _ => rfl

/-- A command that is no word builder leaves the word buffer, but for the checksum in WB[0]. -/
theorem Completed.wordBuffer_eq (h : Completed s i u) (hi : i ∉ wordBuilders) :
    u.wbLen = s.wbLen ∧ ∀ k, (k ≠ 0 ∨ (i ≠ .fxasum ∧ i ≠ .fxnsum)) → Memory.read u.wb k = Memory.read s.wb k := by
  cases h with
  | words hc => exact absurd hc hi
  | checksum hc =>
    refine ⟨rfl, fun k hk => ?_⟩
    have hk0 : k ≠ 0 := hk.resolve_right fun ⟨ha, hn⟩ => hc.elim ha hn
    rw [Memory.read_write, if_neg hk0]
  | _ => exact ⟨rfl, fun _ _ => rfl⟩

/-- A completed word builder wrote its words and nothing from their count on (R348). -/
theorem Completed.wb_read_of_wbLen_le (h : Completed s i u) (hi : i ∈ wordBuilders) (k : Nat)
    (hk : u.wbLen.toNat ≤ k) : Memory.read u.wb k = Memory.read s.wb k := by
  cases h with
  | @words _ _ ws _ _ hlen =>
    have hcount : (BitVec.ofNat 32 ws.length).toNat = ws.length :=
      Nat.mod_eq_of_lt (Nat.lt_of_le_of_lt hlen (by decide))
    have hout : ¬ (0 ≤ k ∧ k < 0 + ws.length) := by simp only [hcount] at hk; omega
    rw [Memory.read_writeList, dif_neg hout]
  | checksum hc => rcases hc with rfl | rfl <;> simp [wordBuilders] at hi
  | _ => rfl

/-! ### What the FIFO can become -/

theorem Completed.fifo_append (h : Completed s i u) (hi : i ∈ cfgGated) :
    ∃ x, u.fifo = s.fifo ++ x ∧ s.fifo.length + x.length ≤ s.params.fifoCap := by
  have hnot : ∀ j ∈ cfgGated, j ∉ resultCommands ∧ j ∉ wordBuilders ∧ ¬(j = .fxasum ∨ j = .fxnsum) := by decide
  obtain ⟨hres, hwords, hsum⟩ := hnot i hi
  cases h with
  | append _ _ hfits => exact ⟨_, rfl, hfits⟩
  | results hc => exact absurd hc hres
  | words hc => exact absurd hc hwords
  | checksum hc => exact absurd hc hsum
  | literal => simp [cfgGated] at hi
  | pop => simp [cfgGated] at hi
  | polarity => simp [cfgGated] at hi
  | rates => simp [cfgGated] at hi

theorem Completed.fifo_pop (h : Completed s .pop u) : u.fifo = s.fifo.drop s.popCount := by
  cases h with
  | pop => rfl
  | results hc => exact absurd hc (by decide)
  | append hc => exact absurd hc (by decide)
  | words hc => exact absurd hc (by decide)
  | checksum hc => exact absurd hc (by decide)

theorem Completed.fifoWithinCapacity (h : Completed s i u) (hs : s.FifoWithinCapacity) : u.FifoWithinCapacity := by
  cases h with
  | append _ _ hfits => exact (List.length_append).trans_le hfits
  | pop => exact Nat.le_trans (List.length_drop.trans_le (Nat.sub_le _ _)) hs
  | _ => exact hs

theorem Failed.fifo_eq (h : Failed s i u) : u.fifo = s.fifo := by cases h <;> rfl

end

/-- Settles O17: of the kinds of effect only an append and a pop touch the FIFO, and a failure keeps it. -/
theorem fifoChangesOnlyAtItsEnds : Obligations.FifoChangesOnlyAtItsEnds := by
  intro i s t h
  cases ended_of_exec h with
  | error hf e =>
    refine ⟨fun _ => .inl ⟨errorResult_ne_zero e, hf.fifo_eq⟩, ?_, fun _ _ => hf.fifo_eq⟩
    -- POP raises no error: its answer has RESULT 0
    rintro rfl
    have hres := congrArg State.result (Host.Outcome.next.inj h)
    exact absurd hres.symm (errorResult_ne_zero e)
  | ok hc =>
    refine ⟨fun hi => .inr ⟨rfl, hc.fifo_append hi⟩, ?_, hc.fifo_eq⟩
    rintro rfl
    exact hc.fifo_pop

end Sys2Proof.Machine
end

section
/-! PROOF. Every step keeps the state invariant. -/

namespace Sys2Proof.Machine

/-! ### The invariant -/

section

variable {s u t : State} {i : Instr}

/-- An accepted pair of rates agrees with CFG_OK (R28): the quotient fits the register, and is not 0. -/
theorem ratesConsistent_of_quotient (b r : Word) (hb : b.toNat ≠ 0) (hr : r.toNat ≠ 0)
    (hmul : r.toNat % b.toNat = 0) :
    b ≠ 0 ∧ r.toNat % b.toNat = 0 ∧ (BitVec.ofNat 32 (r.toNat / b.toNat)).toNat = r.toNat / b.toNat
      ∧ 1 ≤ (BitVec.ofNat 32 (r.toNat / b.toNat)).toNat := by
  have hq : (BitVec.ofNat 32 (r.toNat / b.toNat)).toNat = r.toNat / b.toNat :=
    Nat.mod_eq_of_lt (Nat.lt_of_le_of_lt (Nat.div_le_self _ _) r.isLt)
  have hle : b.toNat ≤ r.toNat := Nat.le_of_dvd (Nat.pos_of_ne_zero hr) (Nat.dvd_of_mod_eq_zero hmul)
  refine ⟨fun h => hb (by simp [h]), hmul, hq, ?_⟩
  rw [hq]
  exact Nat.div_pos hle (Nat.pos_of_ne_zero hb)

/-- A popped symbol is +1 or -1 (R168). -/
theorem symbolOf_cases (p b : Bool) : symbolOf p b = 0x00000001#32 ∨ symbolOf p b = 0xFFFFFFFF#32 := by
  unfold symbolOf
  split
  · exact .inl rfl
  · exact .inr rfl

/-- Writing symbols to OUT leaves every entry a symbol or the reset value. -/
theorem outputsAreSymbols_writeList (hs : s.OutputsAreSymbols) (p : Bool) (x : List Bool) :
    State.OutputsAreSymbols { s with out := Memory.writeList s.out 0 (x.map (symbolOf p)) } := by
  intro k
  simp only [Memory.read_writeList]
  split
  · rw [List.getElem_map]
    exact .inr (symbolOf_cases _ _)
  · exact hs k

theorem popCount_le (s : State) : s.popCount ≤ Config.popMax := Nat.min_le_right _ _

/-- A completed effect keeps the invariant: each kind of effect has one clause to answer for. -/
theorem Completed.inv (h : Completed s i u) (hs : s.Inv) : u.Inv := by
  obtain ⟨⟨hmsg, hwb, hout⟩, hfifo, hbv, hrates, hstatus, houtputs, hparams⟩ := hs
  have hfifo' := h.fifoWithinCapacity hfifo
  cases h with
  | words _ _ hlen =>
    have hwb' := Memory.writeList_wf Config.wbMax s.wb 0 _ hwb (by simpa using hlen)
    exact ⟨⟨hmsg, hwb', hout⟩, hfifo, hbv, hrates, hstatus, houtputs, hparams⟩
  | @checksum _ _ v =>
    have hwb' := Memory.write_wf Config.wbMax s.wb 0 v hwb (by decide)
    exact ⟨⟨hmsg, hwb', hout⟩, hfifo, hbv, hrates, hstatus, houtputs, hparams⟩
  | literal _ hlen => exact ⟨⟨hmsg, hwb, hout⟩, hfifo, hlen, hrates, hstatus, houtputs, hparams⟩
  | pop =>
    have hlen : 0 + ((s.fifo.take s.popCount).map (symbolOf s.polInv)).length ≤ Config.popMax := by
      have := popCount_le s
      simp only [List.length_map, List.length_take]
      omega
    have hout' := Memory.writeList_wf Config.popMax s.out 0 _ hout hlen
    exact ⟨⟨hmsg, hwb, hout'⟩, hfifo', hbv, hrates, hstatus, outputsAreSymbols_writeList houtputs _ _, hparams⟩
  | rates hbaud hsym hmul =>
    have hrates' := ratesConsistent_of_quotient _ _ hbaud hsym hmul
    exact ⟨⟨hmsg, hwb, hout⟩, hfifo, hbv, hrates', hstatus, houtputs, hparams⟩
  | _ => exact ⟨⟨hmsg, hwb, hout⟩, hfifo', hbv, hrates, hstatus, houtputs, hparams⟩

theorem Failed.inv (h : Failed s i u) (hs : s.Inv) : u.Inv := by
  cases h with
  | kept => exact hs
  | cleared => exact { hs with rates := ⟨rfl, rfl, rfl⟩ }

/-- Every error has a pair of codes of R310 and R311. -/
theorem errorCodes_mem (e : CmdError) : (errorResult e, errorDetail e) ∈ reportCodes := by
  cases e with
  | inputValidation d => cases d <;> decide
  | configuration d => cases d <;> decide
  | invariantViolation d => cases d <;> decide
  | invalidFormat => decide
  | illegalCommand => decide
  | queueOverflow => decide

theorem State.Inv.endOk (hs : s.Inv) (opc : Byte) : (s.endOk opc).Inv :=
  { hs with status := ⟨List.mem_cons_self, fun hresult => absurd rfl hresult⟩ }

theorem State.Inv.endError (hs : s.Inv) (e : CmdError) (opc : Byte) : (s.endError e opc).Inv :=
  { hs with status := ⟨errorCodes_mem e, fun _ => rfl⟩ }

theorem Ended.inv (h : Ended s i t) (hs : s.Inv) : t.Inv := by
  cases h with
  | ok hc => exact (hc.inv hs).endOk _
  | error hf e => exact (hf.inv hs).endError e _

/-- A host write to a register keeps the invariant: it reaches operands and the two buffers the host may write. -/
theorem State.Inv.writeReg (hs : s.Inv) (r : Reg) (v : Word) : (s.writeReg r v).Inv := by
  obtain ⟨hmsg, hwb, hout⟩ := hs.buffers
  cases r with
  | msg k => exact { hs with buffers := ⟨Memory.write_wf _ _ _ _ hmsg k.isLt, hwb, hout⟩ }
  | wb k => exact { hs with buffers := ⟨hmsg, Memory.write_wf _ _ _ _ hwb k.isLt, hout⟩ }
  | _ => exact { hs with }

theorem State.Inv.memWrite (hs : s.Inv) (a : RegAddr) (v : Word) : (s.memWrite a v).Inv := by
  unfold State.memWrite
  split
  · exact hs.writeReg _ v
  · exact hs

theorem runCommand_inv {c : Word} (h : runCommand c s = .next t) (hs : s.Inv) : t.Inv := by
  unfold runCommand at h
  split at h
  · exact (ended_of_exec h).inv hs
  · cases h
    exact hs.endError _ _

/-- The host's own side is no part of the invariant. -/
theorem State.Inv.withHostSide (hs : s.Inv) (rest : List HostAccess) (v : Option Word) :
    { s with pending := rest, readData := v }.Inv :=
  { hs with }

end

/-- Settles O12, by the kind of the host's next access. -/
theorem stepKeepsStateInvariant : Obligations.StepKeepsStateInvariant := by
  intro s t hs h
  unfold step at h
  split at h
  next => cases h; exact hs
  next _a _rest _hread => cases h; exact hs.withHostSide _ _
  next _rest _hreset => cases h; exact State.hostReset_inv _ hs.params
  next _a _v _rest _hwrite =>
    split at h
    next _hcmd => exact runCommand_inv h (hs.withHostSide _ _)
    next => cases h; exact (hs.withHostSide _ _).memWrite _ _

end Sys2Proof.Machine
end

section
/-! PROOF. The report in STATUS, and the owners of every other piece of state. -/

namespace Sys2Proof.Machine

/-! ### The report -/

section

variable {s u t : State} {i : Instr}

theorem Failed.cfgOk_eq (h : Failed s i u) (hi : i ≠ .setrate) : u.cfgOk = s.cfgOk := by
  cases h with
  | kept => rfl
  | cleared => exact absurd rfl hi

/-- The report of a command, whichever way it ends (R26, R312). -/
theorem Ended.report (h : Ended s i t) :
    t.lastOp = opcode i ∧ (t.result, t.detail) ∈ reportCodes ∧ t.stickyErr = (s.stickyErr || t.result != 0)
      ∧ (i ≠ .setrate → t.cfgOk = s.cfgOk) := by
  cases h with
  | ok hc =>
    refine ⟨rfl, List.mem_cons_self, by simp [hc.stickyErr_eq], fun hi => ?_⟩
    obtain ⟨_, _, _, hcfgOk⟩ := hc.rates_eq hi
    exact hcfgOk
  | error hf e =>
    exact ⟨rfl, errorCodes_mem e, by simp, hf.cfgOk_eq⟩

end

/-- A host write other than CMD's leaves the report alone: STATUS is read-only to the host (R39). -/
theorem writeReg_status (s : State) (r : Reg) (v : Word) :
    (s.writeReg r v).result = s.result ∧ (s.writeReg r v).detail = s.detail ∧ (s.writeReg r v).lastOp = s.lastOp
      ∧ (s.writeReg r v).cfgOk = s.cfgOk ∧ (s.writeReg r v).stickyErr = s.stickyErr := by
  cases r <;> exact ⟨rfl, rfl, rfl, rfl, rfl⟩

theorem memWrite_status (s : State) (a : RegAddr) (v : Word) :
    (s.memWrite a v).result = s.result ∧ (s.memWrite a v).detail = s.detail ∧ (s.memWrite a v).lastOp = s.lastOp
      ∧ (s.memWrite a v).cfgOk = s.cfgOk ∧ (s.memWrite a v).stickyErr = s.stickyErr := by
  unfold State.memWrite
  split
  · exact writeReg_status s _ v
  · exact ⟨rfl, rfl, rfl, rfl, rfl⟩

/-- Settles O15: every end of a command is a report, and no access but these two reaches one. -/
theorem everyCommandReportsInStatus : Obligations.EveryCommandReportsInStatus := by
  refine ⟨fun i s => ?_, fun s t h hcmd hreset => ?_⟩
  · obtain ⟨t, hexec, hended⟩ := exec_ended i s
    exact ⟨t, hexec, hended.report⟩
  · unfold step at h
    split at h
    next => cases h; exact ⟨rfl, rfl, rfl, rfl, rfl⟩
    next => cases h; exact ⟨rfl, rfl, rfl, rfl, rfl⟩
    next hp => exact absurd hp (hreset _)
    next a v rest hp =>
      split at h
      next ha => subst ha; exact absurd hp (hcmd v rest)
      next => cases h; exact memWrite_status _ a v

/-! ### Who writes what -/

/-- Settles O19, clause by clause: a failure writes the report alone, or the rates that SETRATE owns. -/
theorem commandsWriteOnlyTheirState : Obligations.CommandsWriteOnlyTheirState := by
  intro i s t h
  cases ended_of_exec h with
  | ok hc =>
    obtain ⟨hop, hmsg, hmsgLen, hcap, hcapCount, hparams, hpending, hread⟩ := hc.inputs_eq
    obtain ⟨hres3, hres2, hres1⟩ := hc.res_frame
    exact ⟨hop, hmsg, hmsgLen, hcap, hcapCount, hparams, hpending, hread, hres3, hres2, hres1, hc.res_eq_of_config,
      hc.polInv_eq, hc.rates_eq, hc.out_eq, hc.bv_eq, hc.fifo_eq, hc.wordBuffer_eq,
      fun hi _ => hc.wb_read_of_wbLen_le hi⟩
  | error hf e =>
    cases hf with
    | kept => simp
    | cleared => simp

end Sys2Proof.Machine
end

section
/-! PROOF. A frame sequencer runs the same with any other word buffer. -/

namespace Sys2Proof.Machine

/-! ### The word buffer -/

/-- `s` with the word buffer `m` of length register `n`. -/
def State.withWordBuffer (m : Memory 32) (n : Word) (s : State) : State := { s with wb := m, wbLen := n }

section

variable (m : Memory 32) (n : Word)

theorem queueFrame_withWordBuffer (s : State) (x : List Bool) :
    (s.withWordBuffer m n).queueFrame x = State.withWordBuffer m n <$> s.queueFrame x := by
  simp only [State.queueFrame, State.fifoAppend, appendSymbols_eq, State.withWordBuffer]
  split <;> rfl

theorem endCommand_withWordBuffer (s : State) (opc : Byte) (r : Except CmdError State) :
    (s.withWordBuffer m n).endCommand opc (State.withWordBuffer m n <$> r)
      = (s.endCommand opc r).withWordBuffer m n := by
  cases r <;> rfl

theorem pocsagFrameEffect_withWordBuffer (fb : BitVec 2) (build : List Byte → Except CmdError (List Word)) (s : State) :
    pocsagFrameEffect fb build (s.withWordBuffer m n) = State.withWordBuffer m n <$> pocsagFrameEffect fb build s := by
  simp only [pocsagFrameEffect, map_bind, queueFrame_withWordBuffer]
  rfl

theorem txflxnEffect_withWordBuffer (s : State) :
    txflxnEffect (s.withWordBuffer m n) = State.withWordBuffer m n <$> txflxnEffect s := by
  simp only [txflxnEffect, map_bind, queueFrame_withWordBuffer]
  rfl

theorem txflxaEffect_withWordBuffer (s : State) :
    txflxaEffect (s.withWordBuffer m n) = State.withWordBuffer m n <$> txflxaEffect s := by
  simp only [txflxaEffect, map_bind, queueFrame_withWordBuffer]
  rfl

theorem gscFrameEffect_withWordBuffer (table : List (Byte × BitVec 7)) (s : State) :
    gscFrameEffect table (s.withWordBuffer m n) = State.withWordBuffer m n <$> gscFrameEffect table s := by
  simp only [gscFrameEffect, map_bind, queueFrame_withWordBuffer]
  rfl

end

/-- Each sequencer is a command given by an effect on which the word buffer has no bearing. -/
theorem frameSequencer_effect (i : Instr) (hi : i ∈ frameSequencers) :
    ∃ f : State → Except CmdError State, (∀ s, exec i s = .next (s.endCommand (opcode i) (f s)))
      ∧ ∀ m n s, f (State.withWordBuffer m n s) = State.withWordBuffer m n <$> f s := by
  simp only [frameSequencers, List.mem_cons, List.not_mem_nil, or_false] at hi
  rcases hi with rfl | rfl | rfl | rfl | rfl | rfl
  · exact ⟨pocsagFrameEffect 0b00#2 pocsagNumWords, fun _ => rfl, fun m n => pocsagFrameEffect_withWordBuffer m n _ _⟩
  · exact ⟨pocsagFrameEffect 0b11#2 pocsagAlphaWords, fun _ => rfl, fun m n => pocsagFrameEffect_withWordBuffer m n _ _⟩
  · exact ⟨txflxnEffect, fun _ => rfl, txflxnEffect_withWordBuffer⟩
  · exact ⟨txflxaEffect, fun _ => rfl, txflxaEffect_withWordBuffer⟩
  · exact ⟨fun s => gscFrameEffect s.params.gscNumMap s, fun _ => rfl,
      fun m n s => gscFrameEffect_withWordBuffer m n s.params.gscNumMap s⟩
  · exact ⟨fun s => gscFrameEffect s.params.gscAlphaMap s, fun _ => rfl,
      fun m n s => gscFrameEffect_withWordBuffer m n s.params.gscAlphaMap s⟩

/-- Settles O20: the buffer passes through the effect and through the end of the command. -/
theorem sequencersIgnoreWordBuffer : Obligations.SequencersIgnoreWordBuffer := by
  intro i hi s t m n h
  obtain ⟨f, hexec, hf⟩ := frameSequencer_effect i hi
  obtain rfl : s.endCommand (opcode i) (f s) = t := Host.Outcome.next.inj ((hexec s).symm.trans h)
  calc exec i (s.withWordBuffer m n)
      = .next ((s.withWordBuffer m n).endCommand (opcode i) (f (s.withWordBuffer m n))) := hexec _
    _ = .next ((s.endCommand (opcode i) (f s)).withWordBuffer m n) := by rw [hf, endCommand_withWordBuffer]

end Sys2Proof.Machine
end

section
/-! PROOF. The register map and the host's accesses by index: the map is exact, its gaps are the unmapped ranges,
an access to a gap does nothing, and a write of CMD runs the command it selects (R60 to R63, R80). -/

namespace Sys2Proof.Machine

/-! ### The gaps of the register map -/

/-- No register lies in a gap of the map: each index is a literal, or a base plus a bounded offset. -/
theorem not_unmapped_regIndex (r : Reg) : ¬ unmapped (regIndex r) := by
  cases r with
  | op k | res k | cap k | msg k | wb k | out k =>
    simp only [unmapped, regIndex, BitVec.toNat_ofNat]
    omega
  | _ => decide

/-- An index that no branch of the map takes lies in a gap between two branches, or after the last. -/
theorem unmapped_of_regAt_eq_none {a : RegAddr} (h : regAt a = none) : unmapped a := by
  simp only [regAt, dite_eq_iff, ite_eq_iff, reduceCtorEq, and_false, exists_false, false_or, exists_prop,
    and_true] at h
  unfold unmapped
  omega

theorem regAt_eq_none_iff {a : RegAddr} : regAt a = none ↔ unmapped a := by
  refine ⟨unmapped_of_regAt_eq_none, fun hun => ?_⟩
  cases ha : regAt a with
  | none => rfl
  | some r => exact absurd (regIndex_of_regAt ha ▸ hun) (not_unmapped_regIndex r)

/-- Settles O3: the map and the index function are inverse to each other, and the gaps are what the map leaves out. -/
theorem registerMapIsExact : Obligations.RegisterMapIsExact := by
  refine ⟨fun a r => ⟨regIndex_of_regAt, ?_⟩, fun a => regAt_eq_none_iff⟩
  rintro rfl
  exact regAt_regIndex r

/-! ### Accesses to an unmapped index -/

theorem memRead_of_unmapped {a : RegAddr} (ha : unmapped a) (s : State) : s.memRead a = 0 := by
  rw [State.memRead, regAt_eq_none_iff.mpr ha]

theorem memWrite_of_unmapped {a : RegAddr} (ha : unmapped a) (s : State) (v : Word) : s.memWrite a v = s := by
  rw [State.memWrite, regAt_eq_none_iff.mpr ha]

section Accesses

variable {s : State} {a : RegAddr} {v : Word} {rest : List HostAccess}

/-- A read (R62). -/
theorem step_read (h : s.pending = .read a :: rest) :
    step s = .next { s with pending := rest, readData := some (s.memRead a) } := by
  simp only [step, h]

/-- A write to an index other than CMD's (R62). -/
theorem step_write_of_ne_cmdAddr (ha : a ≠ cmdAddr) (h : s.pending = .write a v :: rest) :
    step s = .next (State.memWrite { s with pending := rest } a v) := by
  simp only [step, h, if_neg ha]

/-- A write of CMD (R62, R81). -/
theorem step_write_cmdAddr (h : s.pending = .write cmdAddr v :: rest) :
    step s = runCommand v { s with pending := rest } := by
  simp only [step, h, if_pos]

end Accesses

/-- A CMD value that decodes runs its command (R80). -/
theorem runCommand_of_decode {c : Word} {i : Instr} (h : decode c = .ok i) (s : State) :
    runCommand c s = exec i s := by
  rw [runCommand, h]

/-- Settles O7: the map answers no register, and the index is not CMD's. -/
theorem unmappedIndexReadsZeroIgnoresWrites : Obligations.UnmappedIndexReadsZeroIgnoresWrites := by
  intro s a v rest ha
  refine ⟨fun hread => ?_, fun hwrite => ?_⟩
  · rw [step_read hread, memRead_of_unmapped ha]
  · have hcmd : a ≠ cmdAddr := by
      rintro rfl
      exact not_unmapped_regIndex .cmd ha
    rw [step_write_of_ne_cmdAddr hcmd hwrite, memWrite_of_unmapped ha]

/-- Settles O4: the access is a write of CMD, and its word selects the command. -/
theorem stepRunsDecodedCommand : Obligations.StepRunsDecodedCommand := by
  intro s c i rest hpending hdecode
  rw [step_write_cmdAddr hpending, runCommand_of_decode hdecode]

end Sys2Proof.Machine
end

section
/-! PROOF. The decoder and the encoder of the command word are inverse to each other on the 39 opcodes, and a CMD value
that is no command word changes STATUS alone (R80 to R82, R85, R88). -/

namespace Sys2Proof

/-! ### The opcode table -/

/-- Each row of the opcode table pairs a command with its opcode (R85). -/
theorem opcode_of_mem_opcodeMap : ∀ r ∈ opcodeMap, opcode r.2 = r.1 := by decide

/-- The opcode column of the table is the list of assigned opcodes (R85). -/
theorem opcodeMap_map_fst : opcodeMap.map (·.1) = assignedOpcodes := by decide

theorem decodeOpcode_opcode (i : Instr) : decodeOpcode (opcode i) = some i := by cases i <;> rfl

theorem opcode_of_decodeOpcode {o : Byte} {i : Instr} (h : decodeOpcode o = some i) : opcode i = o := by
  obtain ⟨r, hfind, rfl⟩ := Option.map_eq_some_iff.mp h
  have hmem : r ∈ opcodeMap := List.mem_of_find?_eq_some hfind
  have hkey : (r.1 == o) = true := List.find?_some (p := fun r : Byte × Instr => r.1 == o) hfind
  rw [opcode_of_mem_opcodeMap r hmem, eq_of_beq hkey]

theorem decodeOpcode_eq_some_iff {o : Byte} {i : Instr} : decodeOpcode o = some i ↔ o = opcode i :=
  ⟨fun h => (opcode_of_decodeOpcode h).symm, fun h => h ▸ decodeOpcode_opcode i⟩

theorem decodeOpcode_eq_none_iff {o : Byte} : decodeOpcode o = none ↔ o ∉ assignedOpcodes := by
  rw [← opcodeMap_map_fst]
  simp only [decodeOpcode, Option.map_eq_none_iff, List.find?_eq_none, List.mem_map, beq_iff_eq, not_exists, not_and]

/-! ### Command words -/

/-- A CMD value is its two fields, RSVD above OPC (R80). -/
theorem cmdFields_append (c : Word) : c.extractLsb' 8 24 ++ c.setWidth 8 = c := by
  rw [BitVec.setWidth_eq_extractLsb' (by omega), BitVec.extractLsb'_append_extractLsb'_eq_extractLsb' (by omega)]
  exact BitVec.extractLsb'_eq_self

/-- A command's word is the one whose reserved bits are 0 and whose opcode is the command's (R80). -/
theorem eq_encode_iff {c : Word} {i : Instr} : c = encode i ↔ c.extractLsb' 8 24 = 0 ∧ c.setWidth 8 = opcode i := by
  constructor
  · rintro rfl
    exact ⟨BitVec.extractLsb'_append_eq_left, BitVec.setWidth_append_eq_right⟩
  · rintro ⟨hrsvd, hopc⟩
    rw [encode, ← hopc]
    exact (cmdFields_append c).symm.trans (congrArg (· ++ c.setWidth 8) hrsvd)

theorem decode_of_reserved {c : Word} (h : c.extractLsb' 8 24 ≠ 0) : decode c = .error .reservedBits := if_neg h

theorem decode_of_decodeOpcode_none {c : Word} (hrsvd : c.extractLsb' 8 24 = 0)
    (h : decodeOpcode (c.setWidth 8) = none) : decode c = .error .unassignedOpcode := by
  rw [decode, if_pos hrsvd, h]

theorem decode_of_decodeOpcode_some {c : Word} {i : Instr} (hrsvd : c.extractLsb' 8 24 = 0)
    (h : decodeOpcode (c.setWidth 8) = some i) : decode c = .ok i := by
  rw [decode, if_pos hrsvd, h]

/-- What the decoder accepts: reserved bits 0 and an assigned opcode. -/
theorem decode_eq_ok_iff {c : Word} {i : Instr} : decode c = .ok i ↔ c = encode i := by
  rw [eq_encode_iff, ← decodeOpcode_eq_some_iff]
  refine ⟨fun h => ?_, fun ⟨hrsvd, hopc⟩ => decode_of_decodeOpcode_some hrsvd hopc⟩
  by_cases hrsvd : c.extractLsb' 8 24 = 0
  · cases hopc : decodeOpcode (c.setWidth 8) with
    | none => cases (decode_of_decodeOpcode_none hrsvd hopc).symm.trans h
    | some j => cases (decode_of_decodeOpcode_some hrsvd hopc).symm.trans h; exact ⟨hrsvd, rfl⟩
  · cases (decode_of_reserved hrsvd).symm.trans h

/-- What the decoder refuses (R81). -/
theorem decode_eq_error_iff {c : Word} :
    (∃ e, decode c = .error e) ↔ (c.extractLsb' 8 24 ≠ 0 ∨ c.setWidth 8 ∉ assignedOpcodes) := by
  rw [← decodeOpcode_eq_none_iff]
  by_cases hrsvd : c.extractLsb' 8 24 = 0
  · cases hopc : decodeOpcode (c.setWidth 8) with
    | none => simp [decode_of_decodeOpcode_none hrsvd hopc]
    | some i => simp [decode_of_decodeOpcode_some hrsvd hopc, hrsvd]
  · exact iff_of_true ⟨_, decode_of_reserved hrsvd⟩ (.inl hrsvd)

/-- R82: all opcode values but the 39 are unassigned. -/
theorem unassignedOpcodes_length :
    ((List.range 256).filter fun o => !assignedOpcodes.contains (BitVec.ofNat 8 o)).length = 217 := by decide +kernel

/-- Settles O2: what the decoder accepts, what it refuses, and the count. -/
theorem decodeExactlyEncodedWords : Obligations.DecodeExactlyEncodedWords :=
  ⟨fun _ _ => decode_eq_ok_iff, fun _ => decode_eq_error_iff, unassignedOpcodes_length⟩

/-- Settles O1: the legal words are the encodings of their commands; of the two others, one has a reserved bit set and
the other an opcode of no command. -/
theorem commandWordsDecode : Obligations.CommandWordsDecode := by
  refine ⟨decode_eq_ok_iff.mpr ?_, decode_eq_ok_iff.mpr ?_, decode_of_reserved ?_, decode_eq_ok_iff.mpr ?_,
    decode_eq_ok_iff.mpr ?_, decode_eq_ok_iff.mpr ?_, decode_eq_ok_iff.mpr ?_, decode_eq_ok_iff.mpr ?_,
    decode_of_decodeOpcode_none ?_ (decodeOpcode_eq_none_iff.mpr ?_)⟩ <;> decide

namespace Machine

/-- A CMD value that does not decode is reported as an illegal command (R81, R310). -/
theorem runCommand_of_decode_error {c : Word} {e : DecodeError} (h : decode c = .error e) (s : State) :
    runCommand c s = .next (s.reportError 5 0 (c.setWidth 8)) := by
  rw [runCommand, h]
  rfl

/-- Settles O5: the two cases of the step's write of CMD are the decoder's two answers. -/
theorem illegalCommandChangesOnlyStatus : Obligations.IllegalCommandChangesOnlyStatus := by
  intro s c rest hpending
  refine ⟨fun hillegal => ?_, fun i hword => ?_⟩
  · obtain ⟨e, herror⟩ := decode_eq_error_iff.mpr hillegal
    rw [step_write_cmdAddr hpending, runCommand_of_decode_error herror]
  · exact stepRunsDecodedCommand s c i rest hpending (decode_eq_ok_iff.mpr hword)

end Machine
end Sys2Proof
end

section
/-! PROOF. The channel codes of 40_primitives.md: a codeword is its data and the remainder of the division below
it (R104 to R106), and the bit counts and reversals the codes are built with (R102, R103). -/

namespace Sys2Proof.Machine

/-! ### Systematic codewords -/

/-- The generator `g` has degree `k`. -/
abbrev HasDegree {n : Nat} (g : BitVec n) (k : Nat) : Prop :=
  g.getLsbD k = true ∧ g.toNat < 2 ^ (k + 1)

section Systematic

variable {n k : Nat} {g v : BitVec n}

theorem HasDegree.lt_width (h : HasDegree g k) : k < n := BitVec.lt_of_getLsbD h.1

theorem HasDegree.getLsbD_above (h : HasDegree g k) : ∀ i, k < i → g.getLsbD i = false := fun _ hi =>
  Nat.testBit_lt_two_pow (Nat.lt_of_lt_of_le h.2 (Nat.pow_le_pow_right (by decide) hi))

/-- The check bits lie below the degree. -/
theorem HasDegree.polymod_getLsbD (h : HasDegree g k) (v : BitVec n) (i : Nat) (hi : k ≤ i) :
    (polymod v g k).getLsbD i = false :=
  Machine.polymod_getLsbD v g k (Nat.le_of_lt h.lt_width) h.1 h.getLsbD_above i hi

/-- The check bits of data from bit `k` up overlap no data bit. -/
theorem or_polymod_eq_xor (h : HasDegree g k) (hv : ∀ i < k, v.getLsbD i = false) :
    v ||| polymod v g k = v ^^^ polymod v g k := by
  apply BitVec.eq_of_getLsbD_eq
  intro i _
  rw [BitVec.getLsbD_or, BitVec.getLsbD_xor]
  rcases Nat.lt_or_ge i k with hi | hi
  · rw [hv i hi, Bool.false_or, Bool.false_xor]
  · rw [h.polymod_getLsbD v i hi, Bool.or_false, Bool.xor_false]

/-- Data with its check bits is a multiple of the generator. -/
theorem polymod_or_polymod (h : HasDegree g k) (hv : ∀ i < k, v.getLsbD i = false) :
    polymod (v ||| polymod v g k) g k = 0 := by
  rw [or_polymod_eq_xor h hv, polymod_xor,
    polymod_polymod v g k (Nat.le_of_lt h.lt_width) h.1 h.getLsbD_above, BitVec.xor_self]
  rfl

/-- The check bits leave the data as it is. -/
theorem or_polymod_getLsbD (h : HasDegree g k) {i : Nat} (hi : k ≤ i) :
    (v ||| polymod v g k).getLsbD i = v.getLsbD i := by
  rw [BitVec.getLsbD_or, h.polymod_getLsbD v i hi, Bool.or_false]

/-- Data put above `k` places leaves them to the check bits. -/
theorem shiftLeft_getLsbD_low (v : BitVec n) (k : Nat) : ∀ i < k, (v <<< k).getLsbD i = false := by
  intro i hi
  simp [hi]

/-- The data read back from a codeword. -/
theorem extractLsb'_or_polymod (h : HasDegree g k) {m : Nat} (hm : k + m ≤ n) (d : BitVec m) :
    (d.setWidth n <<< k ||| polymod (d.setWidth n <<< k) g k).extractLsb' k m = d := by
  apply BitVec.eq_of_getLsbD_eq
  intro i hi
  have hdata : (d.setWidth n <<< k).getLsbD (k + i) = d.getLsbD i := by
    have hn : k + i < n := by omega
    simp [hn]
  rw [BitVec.getLsbD_extractLsb', or_polymod_getLsbD h (Nat.le_add_right k i), hdata, decide_eq_true hi,
    Bool.true_and]

end Systematic

/-! ### The number of ones -/

theorem bitsLsb_succ {n : Nat} (v : BitVec (n + 1)) :
    bitsLsb v = v.getLsbD 0 :: bitsLsb (v.extractLsb' 1 n) := by
  simp only [bitsLsb, List.range_succ_eq_map, List.map_cons, List.map_map, List.cons.injEq, true_and]
  refine List.map_congr_left fun i hi => ?_
  simp [List.mem_range.mp hi, Nat.add_comm]

/-- The ones of a value are that of its bit 0 and those of the bits above. -/
theorem popcount_succ {n : Nat} (v : BitVec (n + 1)) :
    popcount v = (v.getLsbD 0).toNat + popcount (v.extractLsb' 1 n) := by
  rw [popcount, bitsLsb_succ, List.count_cons, popcount]
  cases v.getLsbD 0 <;> simp [Nat.add_comm]

/-- The model's count is the number of positions that hold a one (R9). -/
theorem popcount_eq_card {n : Nat} (v : BitVec n) :
    popcount v = ((Finset.univ : Finset (Fin n)).filter fun k => v.getLsbD k.val = true).card := by
  induction n with
  | zero => rfl
  | succ n ih =>
    rw [popcount_succ, ih, Fin.card_filter_univ_succ']
    congr 1
    · exact Bool.cond_eq_ite ..
    · simp [Nat.add_comm]

/-- A value with bit 0 clear has an even number of ones once its parity stands there (R104). -/
theorem popcount_or_epar {x : Word} (h : x.getLsbD 0 = false) :
    popcount (x ||| (BitVec.ofBool (epar x)).setWidth 32) % 2 = 0 := by
  have hhigh : (x ||| (BitVec.ofBool (epar x)).setWidth 32).extractLsb' 1 31 = x.extractLsb' 1 31 := by
    apply extractLsb'_eq_of_getLsbD
    intro i hi
    simp [hi, Nat.add_comm 1 i]
  have hlow : (x ||| (BitVec.ofBool (epar x)).setWidth 32).getLsbD 0 = epar x := by
    rw [BitVec.getLsbD_or, h]
    simp
  have hx : popcount x = popcount (x.extractLsb' 1 31) := by
    rw [popcount_succ (n := 31), h, Bool.toNat_false, Nat.zero_add]
  rw [popcount_succ (n := 31), hhigh, hlow, ← hx, epar]
  rcases Nat.mod_two_eq_zero_or_one (popcount x) with hp | hp <;> simp [hp, Nat.add_mod]

/-! ### Bit reversal -/

/-- The reversal is an involution (R102). -/
theorem rev32_rev32 (x : Word) : rev32 (rev32 x) = x := by
  apply BitVec.eq_of_getLsbD_eq
  intro i hi
  have hback : 31 - (31 - i) = i := by omega
  have h := rev32_getLsbD (rev32 x) (31 - i) (by omega)
  rwa [hback, rev32_getLsbD x i hi] at h

/-! ### BCH(31,21) -/

theorem g31_hasDegree : HasDegree g31 10 := by decide

/-- The information bits of a word at their place in the polynomial, bit 31 first (R104). -/
def bch31Data (dw : Word) : Word := dw >>> 11 <<< 10

/-- Before the parity bit: the code polynomial from bit 1 up. -/
theorem bch31_eq (dw : Word) :
    bch31 dw = ((bch31Data dw ||| polymod (bch31Data dw) g31 10) <<< 1)
      ||| (BitVec.ofBool (epar ((bch31Data dw ||| polymod (bch31Data dw) g31 10) <<< 1))).setWidth 32 := by
  have hshift : dw >>> 11 <<< 11 = bch31Data dw <<< 1 := by rw [bch31Data, ← BitVec.shiftLeft_add]
  simp only [bch31, hshift, bch31Data, BitVec.shiftLeft_or_distrib]

/-- The code polynomial has 31 coefficients. -/
theorem bch31Poly_getLsbD_31 (dw : Word) :
    (bch31Data dw ||| polymod (bch31Data dw) g31 10).getLsbD 31 = false := by
  rw [or_polymod_getLsbD g31_hasDegree (by decide)]
  simp [bch31Data]

/-- Above the parity bit stands the code polynomial (R104). -/
theorem bch31_ushiftRight (dw : Word) : bch31 dw >>> 1 = bch31Data dw ||| polymod (bch31Data dw) g31 10 := by
  apply BitVec.eq_of_getLsbD_eq
  intro i hi
  rw [bch31_eq]
  rcases Nat.lt_or_ge i 31 with hlt | hge
  · have h1 : 1 + i < 32 := by omega
    have h0 : ¬ 1 + i < 1 := by omega
    simp [h1, h0, BitVec.getLsbD_eq_getElem hi]
  · obtain rfl : i = 31 := by omega
    rw [bch31Poly_getLsbD_31]
    simp

/-- The information bits are kept (R104). -/
theorem bch31_getLsbD (dw : Word) {i : Nat} (hi : 11 ≤ i) : (bch31 dw).getLsbD i = dw.getLsbD i := by
  rcases Nat.lt_or_ge i 32 with hlt | hge
  · have h : (bch31 dw >>> 1).getLsbD (i - 1) = (bch31Data dw).getLsbD (i - 1) := by
      rw [bch31_ushiftRight, or_polymod_getLsbD g31_hasDegree (by omega)]
    rw [BitVec.getLsbD_ushiftRight, show 1 + (i - 1) = i by omega] at h
    have h10 : ¬ i - 1 < 10 := by omega
    have h32 : i - 1 < 32 := by omega
    rw [h, bch31Data, BitVec.getLsbD_shiftLeft, BitVec.getLsbD_ushiftRight, show 11 + (i - 1 - 10) = i by omega]
    simp [h10, h32]
  · rw [BitVec.getLsbD_of_ge _ _ hge, BitVec.getLsbD_of_ge _ _ hge]

/-- BCH(31,21) with the parity bit makes a codeword of every word (R104). -/
theorem bch31_isPagingCodeword (dw : Word) : IsPagingCodeword (bch31 dw) := by
  constructor
  · rw [bch31_ushiftRight]
    exact polymod_or_polymod g31_hasDegree (shiftLeft_getLsbD_low _ 10)
  · rw [bch31_eq]
    exact popcount_or_epar (by simp)

theorem bch31_extractLsb'_high (dw : Word) : (bch31 dw).extractLsb' 11 21 = dw.extractLsb' 11 21 := by
  refine extractLsb'_eq_of_getLsbD fun i hi => ?_
  rw [bch31_getLsbD dw (by omega)]
  simp [hi]

/-! ### Golay(23,12) -/

/-- The two generators the parameters may name (R6). -/
theorem golayPoly_cases {p : Params} (h : p.golayPolyOk = true) :
    p.golayPoly = 0xC75#12 ∨ p.golayPoly = 0xAE3#12 := by
  simpa [Params.golayPolyOk] using h

theorem golayPoly_hasDegree {poly : BitVec 12} (h : poly = 0xC75#12 ∨ poly = 0xAE3#12) :
    HasDegree (poly.setWidth 23) 11 := by
  rcases h with rfl | rfl <;> decide

/-- A Golay codeword is a multiple of its generator (R105). -/
theorem polymod_golay {poly : BitVec 12} (h : poly = 0xC75#12 ∨ poly = 0xAE3#12) (d : BitVec 12) :
    polymod (golay poly d) (poly.setWidth 23) 11 = 0 :=
  polymod_or_polymod (golayPoly_hasDegree h) (shiftLeft_getLsbD_low _ 11)

/-- The dataword stands in bits [22:11] (R105). -/
theorem golay_extractLsb'_high {poly : BitVec 12} (h : poly = 0xC75#12 ∨ poly = 0xAE3#12) (d : BitVec 12) :
    (golay poly d).extractLsb' 11 12 = d :=
  extractLsb'_or_polymod (golayPoly_hasDegree h) (by decide) d

/-- The code is linear (R105). -/
theorem golay_xor {poly : BitVec 12} (h : poly = 0xC75#12 ∨ poly = 0xAE3#12) (d e : BitVec 12) :
    golay poly (d ^^^ e) = golay poly d ^^^ golay poly e := by
  have hxor (d : BitVec 12) :
      golay poly d = d.setWidth 23 <<< 11 ^^^ polymod (d.setWidth 23 <<< 11) (poly.setWidth 23) 11 :=
    or_polymod_eq_xor (golayPoly_hasDegree h) (shiftLeft_getLsbD_low _ 11)
  rw [hxor, hxor, hxor, BitVec.setWidth_xor, BitVec.shiftLeft_xor_distrib, polymod_xor]
  ac_rfl

/-- The word of all ones is a codeword of both generators (R270). -/
theorem golay_allOnes {poly : BitVec 12} (h : poly = 0xC75#12 ∨ poly = 0xAE3#12) :
    golay poly (BitVec.allOnes 12) = 0x7FFFFF#23 := by
  rcases h with rfl | rfl <;> decide

/-! ### BCH(15,7) -/

theorem g15_hasDegree : HasDegree g15 8 := by decide

/-- BCH(15,7) makes a codeword of every unit (R106). -/
theorem bch15_isGscCodeword (u : BitVec 7) : IsGscCodeword (bch15 u) u :=
  ⟨extractLsb'_or_polymod g15_hasDegree (by decide) u, polymod_or_polymod g15_hasDegree (shiftLeft_getLsbD_low _ 8)⟩

end Sys2Proof.Machine
end

section
/-! PROOF. The commands of 40_primitives.md (R100 to R107): each is its code or conversion of OP[0], reported as
completed; SETRATE and BVLIT split along their checks. -/

namespace Sys2Proof.Machine

/-! ### Rates and polarity -/

/-- Settles O21: the three ends of SETRATE are the branches of its two checks. -/
theorem setrateSetsOrClearsRates : Obligations.SetrateSetsOrClearsRates := by
  intro s
  have hzero : (s.op[0].toNat = 0 ∨ s.op[1].toNat = 0) ↔ (s.op[0] = 0 ∨ s.op[1] = 0) :=
    or_congr (BitVec.toNat_inj (y := 0)) (BitVec.toNat_inj (y := 0))
  refine ⟨fun hb hr hmul => ?_, fun h0 => ?_, fun hb hr hmul => ?_⟩
  · have h0 := mt hzero.mp (not_or.mpr ⟨hb, hr⟩)
    simp only [exec, execSetrate, if_neg h0, hmul, ne_eq, not_true_eq_false, if_false]
    rfl
  · simp only [exec, execSetrate, if_pos (hzero.mpr h0)]
    rfl
  · have h0 := mt hzero.mp (not_or.mpr ⟨hb, hr⟩)
    simp only [exec, execSetrate, if_neg h0, if_pos hmul]
    rfl

/-- Settles O22: the arm of SETPOL. -/
theorem setpolSetsPolarity : Obligations.SetpolSetsPolarity := fun _ => rfl

/-! ### Conversions and codes -/

/-- Settles O23: bit `i` of the reversal is bit `31 - i`, twice the same bit. -/
theorem rev32ReversesBits : Obligations.Rev32ReversesBits :=
  ⟨fun s => ⟨rev32 s.op[0], rfl, rev32_getLsbD s.op[0]⟩, rev32_rev32⟩

/-- Settles O24: the parity is that of the count, and the count is that of the positions holding a one. -/
theorem eparCountsOnes : Obligations.EparCountsOnes := by
  intro s
  have hepar : (BitVec.ofBool (epar s.op[0])).setWidth 32
      = if popcount s.op[0] % 2 = 1 then (1 : Word) else 0 := by
    rw [epar]
    rcases Nat.mod_two_eq_zero_or_one (popcount s.op[0]) with hp | hp
    · rw [hp]; rfl
    · rw [hp]; rfl
  rw [← popcount_eq_card, ← hepar]
  rfl

/-- The check of the systematic property never fails (R104). -/
theorem bch31Effect_eq (s : State) : bch31Effect s = .ok (s.setRes 0 (bch31 s.op[0])) := by
  simp only [bch31Effect, bch31_extractLsb'_high, beq_self_eq_true, require_true, ok_bind]

/-- Settles O25: the effect is the codeword of OP[0], which has its high bits. -/
theorem bch31IsSystematicCodeword : Obligations.Bch31IsSystematicCodeword := by
  refine fun s => ⟨bch31 s.op[0], ?_, bch31_extractLsb'_high _, bch31_isPagingCodeword _⟩
  simp only [exec, execBch31, bch31Effect_eq, endCommand_ok]
  rfl

/-- Settles O26: data and remainder of the division by the build's generator. -/
theorem golayIsSystematicCodeword : Obligations.GolayIsSystematicCodeword := by
  intro s hparams
  have hpoly := golayPoly_cases hparams
  refine ⟨golay s.params.golayPoly (s.op[0].setWidth 12), rfl, ?_, polymod_golay hpoly _⟩
  rw [golay_extractLsb'_high hpoly, BitVec.setWidth_eq_extractLsb' (by decide)]

/-- Settles O27: the code is linear, and the complement adds the word of all ones, a codeword itself. -/
theorem golayComplementIsCodeword : Obligations.GolayComplementIsCodeword := by
  intro poly hpoly d
  calc golay poly (~~~d) = golay poly (d ^^^ BitVec.allOnes 12) := by rw [BitVec.xor_allOnes]
    _ = golayComplement (golay poly d) := by rw [golay_xor hpoly, golay_allOnes hpoly, golayComplement]

/-- Settles O28: data and remainder of the division by `G15`. -/
theorem bch15IsSystematicCodeword : Obligations.Bch15IsSystematicCodeword := by
  refine fun s => ⟨bch15 (s.op[0].setWidth 7), rfl, ?_⟩
  rw [← BitVec.setWidth_eq_extractLsb' (by decide)]
  exact bch15_isGscCodeword _

/-! ### The message operand -/

theorem message_eq {s : State} (h1 : 1 ≤ s.msgLen.toNat) (h2 : s.msgLen.toNat ≤ 256) :
    s.message = .ok (Memory.readList s.msg s.msgLen.toNat) :=
  (message_ok_iff s _).mpr ⟨⟨h1, h2⟩, rfl⟩

/-- The check of a message's length (R107). -/
theorem message_eq_error {s : State} (h : s.msgLen.toNat = 0 ∨ 256 < s.msgLen.toNat) :
    s.message = .error (.inputValidation .length) := by
  have hlen : ¬ (0 < s.msgLen.toNat ∧ s.msgLen.toNat ≤ Config.msgMax) := by
    rw [Config.msgMax]
    omega
  simp only [State.message, decide_eq_false hlen, require_false, error_bind]

/-! ### Literals -/

/-- A character that a literal may hold (R107): '0', '1' or space. -/
abbrev IsLiteralChar (c : Byte) : Prop := c = 0x30#8 ∨ c = 0x31#8 ∨ c = 0x20#8

/-- A literal of legal characters: spaces dropped, '1' read as a one. -/
theorem literalBits_eq {m : List Byte} (h : ∀ c ∈ m, IsLiteralChar c) :
    literalBits m = .ok ((m.filter fun c => c != 0x20#8).map fun c => c == 0x31#8) := by
  induction m with
  | nil => rfl
  | cons c m ih =>
    obtain ⟨hc, hm⟩ := List.forall_mem_cons.mp h
    rcases hc with rfl | rfl | rfl <;> simp [literalBits, ih hm, Except.map]

/-- A character of another kind is reported, wherever it stands. -/
theorem literalBits_eq_error {m : List Byte} (h : ∃ c ∈ m, ¬ IsLiteralChar c) :
    literalBits m = .error .invalidFormat := by
  induction m with
  | nil => simp at h
  | cons c m ih =>
    by_cases hc : IsLiteralChar c
    · have hm : ∃ c ∈ m, ¬ IsLiteralChar c := by
        obtain ⟨x, hx, hbad⟩ := h
        rcases List.mem_cons.mp hx with rfl | hx
        · exact absurd hc hbad
        · exact ⟨x, hx, hbad⟩
      rcases hc with rfl | rfl | rfl <;> simp [literalBits, ih hm, Except.map]
    · obtain ⟨h0, h1, hspace⟩ : c ≠ 0x30#8 ∧ c ≠ 0x31#8 ∧ c ≠ 0x20#8 := by
        simpa only [IsLiteralChar, not_or] using hc
      rw [literalBits, if_neg h0, if_neg h1, if_neg hspace]

/-- Settles O29: the message is read, then the literal, and each can be refused. -/
theorem bvlitBuildsBitVector : Obligations.BvlitBuildsBitVector := by
  rintro s _ rfl
  refine ⟨fun h1 h2 hall => ?_, fun h1 h2 ⟨c, hc, h0, hone, hspace⟩ => ?_, fun hlen => ?_⟩
  · simp only [exec, execBvlit, bvlitEffect, message_eq h1 h2, literalBits_eq hall, ok_bind, endCommand_ok,
      List.length_map]
    rfl
  · have hbad : ∃ c ∈ Memory.readList s.msg s.msgLen.toNat, ¬ IsLiteralChar c :=
      ⟨c, hc, by simp only [IsLiteralChar, not_or]; exact ⟨h0, hone, hspace⟩⟩
    simp only [exec, execBvlit, bvlitEffect, message_eq h1 h2, literalBits_eq_error hbad, ok_bind, error_bind,
      endCommand_error]
    rfl
  · simp only [exec, execBvlit, bvlitEffect, message_eq_error hlen, error_bind, endCommand_error]
    rfl

end Sys2Proof.Machine
end

section
/-! PROOF. The POCSAG address word and message words (43_pocsag.md R191 to R197) and the FLEX codeword (44_flex.md
R220 to R223): which bit of an operand stands where in the word, and the commands that build it. -/

namespace Sys2Proof.Machine

/-! ### Bit sequences -/

/-- The first bit of a sequence is the most significant of its value (R195). -/
theorem ofBitsMsb_getLsbD {w : Nat} {s : List Bool} (hw : s.length ≤ w) {b : Nat} (hb : b < s.length) :
    (ofBitsMsb w s).getLsbD (s.length - 1 - b) = s.getD b false := by
  have hpos : s.length - 1 - b < w := by omega
  have hback : s.length - 1 - (s.length - 1 - b) = b := by omega
  rw [ofBitsMsb, ofBitsLsb_getLsbD, decide_eq_true hpos, Bool.true_and, List.getD_eq_getElem?_getD,
    List.getElem?_reverse (by omega), hback, List.getD_eq_getElem?_getD]

/-- A place of a filled sequence: its own bit, then the fill. -/
theorem fillTo_getD {n p : Nat} (f : Nat → Bool) (s : List Bool) (hp : p < n) :
    (fillTo n f s).getD p false = if p < s.length then s.getD p false else f p := by
  rw [fillTo, List.getD_eq_getElem?_getD]
  split
  next h => rw [List.getElem?_append_left h, List.getD_eq_getElem?_getD]
  next h =>
    have hfill : p - s.length < n - s.length := by omega
    have hsum : s.length + (p - s.length) = p := by omega
    rw [List.getElem?_append_right (by omega)]
    simp [hfill, hsum]

/-- Place `p` of a sequence of `w`-bit codes is bit `p % w` of code `p / w`. -/
theorem flatMap_bitsLsb_getD {w p : Nat} (ks : List (BitVec w)) (d : BitVec w) (hp : p < w * ks.length) :
    (ks.flatMap bitsLsb).getD p false = (ks.getD (p / w) d).getLsbD (p % w) := by
  induction ks generalizing p with
  | nil => simp at hp
  | cons k ks ih =>
    rw [List.flatMap_cons, List.getD_eq_getElem?_getD]
    rcases Nat.lt_or_ge p w with hlt | hge
    · rw [List.getElem?_append_left (by simpa using hlt), Nat.div_eq_of_lt hlt, Nat.mod_eq_of_lt hlt,
        List.getD_cons_zero, List.getElem?_eq_getElem (by simpa using hlt), bitsLsb_getElem, Option.getD_some]
    · have hw : 0 < w := Nat.pos_of_ne_zero fun h => by simp [h] at hp
      rw [List.length_cons, Nat.mul_succ] at hp
      rw [List.getElem?_append_right (by simpa using hge), bitsLsb_length, ← List.getD_eq_getElem?_getD,
        ih (by omega), Nat.div_eq_sub_div hw hge, List.getD_cons_succ, ← Nat.mod_eq_sub_mod hge]

/-- Codes filled up with the bits of the code `d` read as codes, `d` after the last. -/
theorem fillTo_codes_getD {w n p : Nat} (ks : List (BitVec w)) (d : BitVec w) (hp : p < n) :
    (fillTo n (fun i => d.getLsbD (i % w)) (ks.flatMap bitsLsb)).getD p false
      = (ks.getD (p / w) d).getLsbD (p % w) := by
  rw [fillTo_getD _ _ hp, flatMap_bitsLsb_length]
  split
  next h => exact flatMap_bitsLsb_getD ks d h
  next h =>
    rcases Nat.eq_zero_or_pos w with rfl | hw
    · rw [BitVec.getLsbD_of_ge _ _ (Nat.zero_le _), BitVec.getLsbD_of_ge _ _ (Nat.zero_le _)]
    · have hlast : ks.length ≤ p / w := (Nat.le_div_iff_mul_le hw).mpr (by rw [Nat.mul_comm]; omega)
      rw [List.getD_eq_default _ _ hlast]

/-- A run of words written from index 0 on reads back as that run. -/
theorem read_writeList_zero {w : Nat} (m : Memory w) (vs : List (BitVec w)) (j : Nat) :
    Memory.read (m.writeList 0 vs) j = if j < vs.length then vs.getD j 0 else Memory.read m j := by
  rw [Memory.read_writeList]
  split
  next h =>
    have hj : j < vs.length := by omega
    rw [if_pos hj, List.getD_eq_getElem _ _ hj]
    rfl
  next h => rw [if_neg (by omega)]

/-- Words from the length of a written run on are as before (R32). -/
theorem read_writeList_of_le {w : Nat} (m : Memory w) (vs : List (BitVec w)) {j : Nat} (h : vs.length ≤ j) :
    Memory.read (m.writeList 0 vs) j = Memory.read m j := by
  rw [read_writeList_zero, if_neg (Nat.not_lt.mpr h)]

theorem read_writeList_of_lt {w : Nat} (m : Memory w) (vs : List (BitVec w)) {j : Nat} (h : j < vs.length) :
    Memory.read (m.writeList 0 vs) j = vs.getD j 0 := by
  rw [read_writeList_zero, if_pos h]

/-! ### POCSAG message words -/

section MessageWords

variable {s : List Bool} {j : Nat}

/-- Message word `j` before its check bits: the message flag, then 20 bits of the sequence (R195). -/
theorem pocsagWords_getD (hj : j < s.length / 20) :
    (pocsagWords s).getD j 0 = bch31 (0x80000000#32 ||| (ofBitsMsb 32 (chunk 20 j s) <<< 11)) := by
  rw [List.getD_eq_getElem _ _ (by simpa using hj)]
  simp [pocsagWords]

theorem pocsagWords_isPagingCodeword (hj : j < s.length / 20) : IsPagingCodeword ((pocsagWords s).getD j 0) := by
  rw [pocsagWords_getD hj]
  exact bch31_isPagingCodeword _

theorem pocsagWords_getLsbD_31 (hj : j < s.length / 20) : ((pocsagWords s).getD j 0).getLsbD 31 = true := by
  rw [pocsagWords_getD hj, bch31_getLsbD _ (by decide), BitVec.getLsbD_or]
  rfl

/-- Below the flag stand the word's 20 bits, the first at bit 30 (R195). -/
theorem pocsagWords_getLsbD (hj : j < s.length / 20) {b : Nat} (hb : b < 20) :
    ((pocsagWords s).getD j 0).getLsbD (30 - b) = s.getD (20 * j + b) false := by
  have hlen : (chunk 20 j s).length = 20 := chunk_length 20 j s (by omega)
  have hflag : ∀ b < 20, (0x80000000#32).getLsbD (30 - b) = false := by decide
  have hplace : 30 - b - 11 = (chunk 20 j s).length - 1 - b := by omega
  have h32 : 30 - b < 32 := by omega
  have h11 : ¬ 30 - b < 11 := by omega
  rw [pocsagWords_getD hj, bch31_getLsbD _ (by omega), BitVec.getLsbD_or, hflag b hb, Bool.false_or,
    BitVec.getLsbD_shiftLeft, decide_eq_true h32, decide_eq_false h11, Bool.not_false, Bool.true_and, Bool.true_and,
    hplace, ofBitsMsb_getLsbD (by omega) (by omega), List.getD_eq_getElem?_getD, chunk_getElem? 20 j s b hb,
    List.getD_eq_getElem?_getD]

end MessageWords

/-- The numeric words hold the digits' codes (R194, R195). -/
theorem pocsagNumWords_isNumericMessage {m : List Byte} {ks : List (BitVec 4)} {ws : List Word}
    (hks : m.map numMap = ks.map some) (h : pocsagNumWords m = .ok ws) :
    IsPocsagNumericMessage (ws.getD · 0) ws.length ks := by
  obtain ⟨ks', hks', rfl⟩ := (pocsagNumWords_ok_iff m ws).mp h
  obtain rfl : ks = ks' := List.map_injective_iff.mpr (Option.some_injective _) (hks.symm.trans hks')
  intro j hj
  rw [pocsagWords_length] at hj
  refine ⟨pocsagWords_isPagingCodeword hj, pocsagWords_getLsbD_31 hj, fun i hi b hb => ?_⟩
  have hdiv : (20 * j + (4 * i + b)) / 4 = 5 * j + i := by omega
  have hmod : (20 * j + (4 * i + b)) % 4 = b := by omega
  beta_reduce
  rw [Nat.sub_sub, pocsagWords_getLsbD hj (by omega)]
  rw [fillTo_groups 20 (by decide)] at hj
  rw [fillTo_codes_getD ks spaceCode (by omega), hdiv, hmod]
  rfl

/-! ### The 7-bit characters -/

theorem asciiMap_of_le {c : Byte} (h : c.toNat ≤ 0x7F) : asciiMap c = some (c.setWidth 7) := if_pos h

theorem asciiMap_of_gt {c : Byte} (h : 0x7F < c.toNat) : asciiMap c = none := if_neg (Nat.not_le.mpr h)

/-- 7-bit characters are mapped to their low bits, EOT after them (R195). -/
theorem map_asciiMap_eot {m : List Byte} (h : ∀ c ∈ m, c.toNat ≤ 0x7F) :
    (m ++ [pocsagEot]).map asciiMap = ((m ++ [pocsagEot]).map fun c => c.setWidth 7).map some := by
  rw [List.map_map]
  refine List.map_congr_left fun c hc => asciiMap_of_le ?_
  rcases List.mem_append.mp hc with hc | hc
  · exact h c hc
  · rw [List.mem_singleton.mp hc]
    decide

/-- Bit `p` of the characters' codes: the byte's bit up to EOT, zero after it (R195). -/
theorem alphaCode_getLsbD (m : List Byte) (p : Nat) :
    (((m ++ [pocsagEot]).map fun c => c.setWidth 7).getD (p / 7) 0#7).getLsbD (p % 7)
      = (decide (p < 7 * (m.length + 1)) && ((m ++ [0x04#8]).getD (p / 7) 0).getLsbD (p % 7)) := by
  have h7 : p % 7 < 7 := Nat.mod_lt p (by decide)
  rw [show (0#7) = (0#8).setWidth 7 by rfl, List.getD_map, BitVec.getLsbD_setWidth, decide_eq_true h7, Bool.true_and,
    pocsagEot]
  by_cases hp : p < 7 * (m.length + 1)
  · rw [decide_eq_true hp, Bool.true_and]
    rfl
  · have hlast : (m ++ [0x04#8]).length ≤ p / 7 := by simp; omega
    rw [decide_eq_false hp, Bool.false_and, List.getD_eq_default _ _ hlast, BitVec.getLsbD_zero]

/-- A message of 7-bit characters has its alphanumeric words, and they hold the characters' bits (R195). -/
theorem pocsagAlphaWords_isAlphaMessage {m : List Byte} (hm : ∀ c ∈ m, c.toNat ≤ 0x7F) :
    ∃ ws, pocsagAlphaWords m = .ok ws ∧ IsPocsagAlphaMessage (ws.getD · 0) ws.length m := by
  refine ⟨_, (pocsagAlphaWords_ok_iff m _).mpr ⟨_, map_asciiMap_eot hm, rfl⟩, fun j hj => ?_⟩
  rw [pocsagWords_length] at hj
  refine ⟨pocsagWords_isPagingCodeword hj, pocsagWords_getLsbD_31 hj, fun b hb => ?_⟩
  have hfill : (fun _ : Nat => false) = fun i => (0#7).getLsbD (i % 7) := by
    funext i
    exact BitVec.getLsbD_zero.symm
  beta_reduce
  rw [pocsagWords_getLsbD hj hb]
  rw [fillTo_groups 20 (by decide)] at hj
  rw [hfill, fillTo_codes_getD _ 0#7 (by omega)]
  exact alphaCode_getLsbD m _

/-! ### The POCSAG address word -/

theorem pocsagAddr_eq {cap : Word} (h : cap.toNat ≤ 0x1FFFFF) (fb : BitVec 2) :
    pocsagAddr cap fb
      = .ok (bch31 (((cap >>> 3) <<< 13) ||| (fb.setWidth 32 <<< 11)), (cap &&& 7#32).toNat) :=
  (pocsagAddr_ok_iff cap fb _).mpr ⟨h, rfl⟩

theorem pocsagAddr_eq_error {cap : Word} (h : 0x1FFFFF < cap.toNat) (fb : BitVec 2) :
    pocsagAddr cap fb = .error (.inputValidation .capcodeRange) := by
  have hcap : ¬ cap ≤ 0x1FFFFF#32 := Nat.not_le.mpr h
  simp only [pocsagAddr, decide_eq_false hcap, require_false, error_bind]

/-- The word of R191 has a clear flag, the capcode's high bits and the function bits. -/
theorem bch31_isPocsagAddress {cap : Word} (h : cap.toNat ≤ 0x1FFFFF) (fb : BitVec 2) :
    IsPocsagAddress (bch31 (((cap >>> 3) <<< 13) ||| (fb.setWidth 32 <<< 11))) cap fb := by
  refine ⟨?_, extractLsb'_eq_of_getLsbD fun i hi => ?_, extractLsb'_eq_of_getLsbD fun i hi => ?_,
    bch31_isPagingCodeword _⟩
  · have hcap : cap.getLsbD 21 = false := Nat.testBit_lt_two_pow (Nat.lt_succ_of_le h)
    rw [bch31_getLsbD _ (by decide)]
    simpa using hcap
  · have h32 : 13 + i < 32 := by omega
    have hfb : 2 ≤ 13 + i - 11 := by omega
    rw [bch31_getLsbD _ (by omega)]
    simp [hi, h32, BitVec.getLsbD_of_ge _ _ hfb]
  · have h32 : 11 + i < 32 := by omega
    have h13 : 11 + i < 13 := by omega
    rw [bch31_getLsbD _ (by omega)]
    simp [h32, h13]

/-- The frame offset is the capcode's low three bits (R191). -/
theorem ofNat_frameOffset (cap : Word) :
    BitVec.ofNat 32 (cap &&& 7#32).toNat = (cap.extractLsb' 0 3).setWidth 32 := by
  apply BitVec.eq_of_toNat_eq
  rw [BitVec.ofNat_toNat, BitVec.setWidth_eq, BitVec.toNat_and, ← BitVec.setWidth_eq_extractLsb' (by decide),
    BitVec.toNat_setWidth_of_le (by decide), BitVec.toNat_setWidth]
  exact Nat.and_two_pow_sub_one_eq_mod _ 3

/-- Settles O41: the capcode's range decides, and the address word is that of R191. -/
theorem paddrFormsAddressWord : Obligations.PaddrFormsAddressWord := by
  refine fun s => ⟨fun hcap => ⟨_, ?_, bch31_isPocsagAddress hcap _⟩, fun hcap => ?_⟩
  · simp only [exec, execPaddr, paddrEffect, pocsagAddr_eq hcap, ok_bind, endCommand_ok, ofNat_frameOffset,
      BitVec.setWidth_eq_extractLsb' (show 2 ≤ 32 by decide)]
    rfl
  · simp only [exec, execPaddr, paddrEffect, pocsagAddr_eq_error hcap, error_bind, endCommand_error]
    rfl

/-! ### The message commands of POCSAG -/

/-- A character without a code is reported (R193, R196). -/
theorem pocsagNumWords_eq_error {m : List Byte} (h : ∃ c ∈ m, numMap c = none) :
    pocsagNumWords m = .error (.inputValidation .character) := by
  rw [pocsagNumWords, (encodeChars_error_iff numMap m _).mpr ⟨h, rfl⟩, error_bind]

/-- A character above 0x7F is reported (R195, R197). -/
theorem pocsagAlphaWords_eq_error {m : List Byte} (h : ∃ c ∈ m, 0x7F < c.toNat) :
    pocsagAlphaWords m = .error (.inputValidation .character) := by
  obtain ⟨c, hc, hgt⟩ := h
  have hnone : ∃ c ∈ m ++ [pocsagEot], asciiMap c = none :=
    ⟨c, List.mem_append_left _ hc, asciiMap_of_gt hgt⟩
  rw [pocsagAlphaWords, (encodeChars_error_iff asciiMap _ _).mpr ⟨hnone, rfl⟩, error_bind]

section MessageCommands

variable {s : State} {build : List Byte → Except CmdError (List Word)}

/-- A message command whose message has words, and room for them: they go to WB, their number to WB_LEN and RES[0]
(R196, R197). -/
theorem pocsagMessage_completes (h1 : 1 ≤ s.msgLen.toNat) (h2 : s.msgLen.toNat ≤ 256) {ws : List Word}
    (hws : build (Memory.readList s.msg s.msgLen.toNat) = .ok ws) (hroom : ws.length ≤ Config.wbMax) (opc : Byte) :
    ∃ t, s.endCommand opc (pocsagMessageEffect build s) = t
      ∧ t = State.reportOk { s with
          wb := t.wb, wbLen := BitVec.ofNat 32 ws.length, res := s.res.set 0 (BitVec.ofNat 32 ws.length) } opc
      ∧ (∀ j, ws.length ≤ j → Memory.read t.wb j = Memory.read s.wb j)
      ∧ ∀ j < ws.length, Memory.read t.wb j = ws.getD j 0 := by
  have hend : s.endCommand opc (pocsagMessageEffect build s) = State.reportOk { s with
      wb := s.wb.writeList 0 ws, wbLen := BitVec.ofNat 32 ws.length,
      res := s.res.set 0 (BitVec.ofNat 32 ws.length) } opc := by
    simp only [pocsagMessageEffect, message_eq h1 h2, hws, decide_eq_true hroom, require_true, ok_bind, endCommand_ok]
    rfl
  exact ⟨_, hend, rfl, fun _ => read_writeList_of_le s.wb ws, fun _ => read_writeList_of_lt s.wb ws⟩

theorem pocsagMessage_length_error (h : s.msgLen.toNat = 0 ∨ 256 < s.msgLen.toNat) (opc : Byte) :
    s.endCommand opc (pocsagMessageEffect build s) = s.reportError 1 2 opc := by
  simp only [pocsagMessageEffect, message_eq_error h, error_bind, endCommand_error]
  rfl

theorem pocsagMessage_character_error (h1 : 1 ≤ s.msgLen.toNat) (h2 : s.msgLen.toNat ≤ 256)
    (h : build (Memory.readList s.msg s.msgLen.toNat) = .error (.inputValidation .character)) (opc : Byte) :
    s.endCommand opc (pocsagMessageEffect build s) = s.reportError 1 3 opc := by
  simp only [pocsagMessageEffect, message_eq h1 h2, h, ok_bind, error_bind, endCommand_error]
  rfl

end MessageCommands

/-- Settles O42: the message is mapped, so its words exist, fit in WB and hold the codes. -/
theorem pmsgnPacksNumericWords : Obligations.PmsgnPacksNumericWords := by
  rintro s m n hm rfl
  subst hm
  refine ⟨fun h1 h2 ks hks => ?_, fun hlen => ?_, fun h1 h2 hbad => ?_⟩
  · obtain ⟨ws, hws⟩ : ∃ ws, pocsagNumWords _ = .ok ws := ⟨_, (pocsagNumWords_ok_iff _ _).mpr ⟨ks, hks, rfl⟩⟩
    have hlength : ws.length = (s.msgLen.toNat + 4) / 5 := by
      rw [pocsagNumWords_length _ ws hws, Memory.readList_length, ceilDiv]
      omega
    have hroom : ws.length ≤ Config.wbMax := by
      rw [hlength, Config.wbMax]
      omega
    obtain ⟨t, hend, hstate, hlater, hread⟩ := pocsagMessage_completes h1 h2 hws hroom (opcode .pmsgn)
    rw [← hlength]
    refine ⟨t, congrArg Host.Outcome.next hend, hstate, hlater, fun j hj => ?_⟩
    rw [hread j hj]
    exact pocsagNumWords_isNumericMessage hks hws j hj
  · exact congrArg Host.Outcome.next (pocsagMessage_length_error hlen _)
  · exact congrArg Host.Outcome.next (pocsagMessage_character_error h1 h2 (pocsagNumWords_eq_error hbad) _)

/-- Settles O43: 7-bit characters and EOT have codes, so their words exist, fit in WB and hold the bits. -/
theorem pmsgaPacksAlphaWords : Obligations.PmsgaPacksAlphaWords := by
  rintro s m n hm rfl
  subst hm
  refine ⟨fun h1 h2 hall => ?_, fun hlen => ?_, fun h1 h2 hbad => ?_⟩
  · obtain ⟨ws, hws, hmessage⟩ := pocsagAlphaWords_isAlphaMessage hall
    have hlength : ws.length = (7 * (s.msgLen.toNat + 1) + 19) / 20 := by
      rw [pocsagAlphaWords_length _ ws hws, Memory.readList_length, ceilDiv]
      omega
    have hroom : ws.length ≤ Config.wbMax := by
      rw [hlength, Config.wbMax]
      omega
    obtain ⟨t, hend, hstate, hlater, hread⟩ := pocsagMessage_completes h1 h2 hws hroom (opcode .pmsga)
    rw [← hlength]
    refine ⟨t, congrArg Host.Outcome.next hend, hstate, hlater, fun j hj => ?_⟩
    rw [hread j hj]
    exact hmessage j hj
  · exact congrArg Host.Outcome.next (pocsagMessage_length_error hlen _)
  · exact congrArg Host.Outcome.next (pocsagMessage_character_error h1 h2 (pocsagAlphaWords_eq_error hbad) _)

/-! ### FLEX codewords -/

/-- FLEX sends the dataword's bit 0 first: bit `k` stands at bit `31 - k` of its codeword (R220). -/
theorem fcw_carriesDataword (x : Word) : CarriesDataword (fcw x) x := by
  refine ⟨bch31_isPagingCodeword _, fun k hk => ?_⟩
  have hmask : ∀ k < 21, (0x1FFFFF#32).getLsbD k = true := by decide
  rw [fcw, bch31_getLsbD _ (by omega), rev32_getLsbD _ k (by omega), BitVec.getLsbD_and, hmask k hk,
    Bool.and_true]

theorem flexSaddr_eq {a : Word} (h1 : 32769 ≤ a.toNat) (h2 : a.toNat ≤ 1966080) : flexSaddr a = .ok (fcw a) :=
  (flexSaddr_ok_iff a _).mpr ⟨⟨h1, h2⟩, rfl⟩

theorem flexSaddr_eq_error {a : Word} (h : a.toNat < 32769 ∨ 1966080 < a.toNat) :
    flexSaddr a = .error (.inputValidation .capcodeRange) := by
  have hrange : ¬ (32769 ≤ a.toNat ∧ a.toNat ≤ 1966080) := by omega
  simp only [flexSaddr, decide_eq_false hrange, require_false, error_bind]

/-- Settles O47: both commands answer `fcw` of OP[0], FSADDR within the range of short addresses. -/
theorem fcwAndFsaddrFormCodewords : Obligations.FcwAndFsaddrFormCodewords := by
  refine fun s => ⟨⟨fcw s.op[0], rfl, fcw_carriesDataword _⟩,
    fun h1 h2 => ⟨fcw s.op[0], ?_, fcw_carriesDataword _⟩, fun h => ?_⟩
  · simp only [exec, execFsaddr, fsaddrEffect, flexSaddr_eq h1 h2, ok_bind, endCommand_ok]
    rfl
  · simp only [exec, execFsaddr, fsaddrEffect, flexSaddr_eq_error h, error_bind, endCommand_error]
    rfl

end Sys2Proof.Machine
end

section
/-! PROOF. The checksums of 41_checksums.md (R140 to R145): each checksum is the complement of a sum, so sum and
checksum add up to the all-ones value, and putting it in the low bits of a word leaves what was summed as it was. -/

namespace Sys2Proof.Machine

/-! ### A field in the low bits of a word -/

/-- A sum and its complement add up to the value of all ones (R140, R141, R143). -/
theorem add_toNat_not_ofNat (w a : Nat) : (a + (~~~(BitVec.ofNat w a)).toNat) % 2 ^ w = 2 ^ w - 1 := by
  have hlt : a % 2 ^ w < 2 ^ w := Nat.mod_lt _ (Nat.two_pow_pos w)
  rw [BitVec.toNat_not, BitVec.toNat_ofNat, ← Nat.mod_add_mod, Nat.add_sub_cancel' (by omega)]
  exact Nat.mod_eq_of_lt (by omega)

section LowField

variable {n : Nat} (x : Word) (k : BitVec n)

theorem getLsbD_setWidth_of_ge {i : Nat} (h : n ≤ i) : (k.setWidth 32).getLsbD i = false := by
  rw [BitVec.getLsbD_setWidth, BitVec.getLsbD_of_ge k i h, Bool.and_false]

/-- Bits from the end of a low field on do not see it. -/
theorem extractLsb'_or_setWidth_of_le {b : Nat} (m : Nat) (h : n ≤ b) :
    (x ||| k.setWidth 32).extractLsb' b m = x.extractLsb' b m := by
  apply extractLsb'_eq_of_getLsbD
  intro i hi
  rw [BitVec.getLsbD_or, getLsbD_setWidth_of_ge k (Nat.le_add_right_of_le h), Bool.or_false,
    BitVec.getLsbD_extractLsb', decide_eq_true hi, Bool.true_and]

variable {x}

/-- A field put in clear low bits reads back. -/
theorem setWidth_or_setWidth (hn : n ≤ 32) (hx : x.setWidth n = 0) : (x ||| k.setWidth 32).setWidth n = k := by
  rw [BitVec.setWidth_or, hx, BitVec.setWidth_setWidth_of_le _ hn, BitVec.setWidth_eq]
  exact BitVec.zero_or

/-- A word with its low bits clear has no bit in common with a low field. -/
theorem and_setWidth_eq_zero (hx : x.setWidth n = 0) : x &&& k.setWidth 32 = 0 := by
  apply BitVec.eq_of_getLsbD_eq
  intro i hi
  rcases Nat.lt_or_ge i n with hlow | hhigh
  · have hbit : x.getLsbD i = false := by
      simpa [hlow] using congrArg (·.getLsbD i) hx
    rw [BitVec.getLsbD_and, hbit, Bool.false_and]
    exact BitVec.getLsbD_zero.symm
  · rw [BitVec.getLsbD_and, getLsbD_setWidth_of_ge k hhigh, Bool.and_false]
    exact BitVec.getLsbD_zero.symm

/-- A mask that holds the low bits keeps a low field. -/
theorem setWidth_and_of_allOnes {mask : Word} (hmask : mask.setWidth n = BitVec.allOnes n) :
    k.setWidth 32 &&& mask = k.setWidth 32 := by
  apply BitVec.eq_of_getLsbD_eq
  intro i hi
  rcases Nat.lt_or_ge i n with hlow | hhigh
  · have hbit : mask.getLsbD i = true := by
      simpa [hlow] using congrArg (·.getLsbD i) hmask
    rw [BitVec.getLsbD_and, hbit, Bool.and_true]
  · rw [BitVec.getLsbD_and, getLsbD_setWidth_of_ge k hhigh, Bool.false_and]

/-- A field put in clear low bits is added to the word. -/
theorem toNat_or_setWidth (hn : n ≤ 32) (hx : x.setWidth n = 0) :
    (x ||| k.setWidth 32).toNat = x.toNat + k.toNat := by
  have hdisjoint : x &&& k.setWidth 32 = 0 := and_setWidth_eq_zero k hx
  rw [← BitVec.add_eq_or_of_and_eq_zero _ _ hdisjoint, BitVec.toNat_add_of_and_eq_zero hdisjoint,
    BitVec.toNat_setWidth_of_le hn]

/-- A mask clears the low bits of a word when it has none there. -/
theorem setWidth_and_eq_zero {mask : Word} (hmask : mask.setWidth n = 0) (w : Word) : (w &&& mask).setWidth n = 0 := by
  rw [BitVec.setWidth_and, hmask]
  exact BitVec.and_zero

end LowField

/-! ### The word checksum -/

/-- What R140 sums beside the checksum nibble: four nibbles and bit 20. -/
def fieldSum (d : Word) : Nat :=
  (d.extractLsb' 4 4).toNat + (d.extractLsb' 8 4).toNat + (d.extractLsb' 12 4).toNat + (d.extractLsb' 16 4).toNat
    + (d.extractLsb' 20 1).toNat

theorem fxcsum_eq (x : Word) :
    fxcsum x = (x &&& 0x1FFFF0#32) ||| (~~~(BitVec.ofNat 4 (fieldSum (x &&& 0x1FFFF0#32)))).setWidth 32 := rfl

theorem hasFlexWordChecksum_iff (d : Word) :
    HasFlexWordChecksum d ↔ d.extractLsb' 21 11 = 0 ∧ (fieldSum d + (d.setWidth 4).toNat) % 16 = 15 := by
  refine and_congr_right fun _ => ?_
  rw [fieldSum, BitVec.setWidth_eq_extractLsb' (by decide)]
  omega

/-- The checksum nibble is not among the fields that are summed. -/
theorem fieldSum_or_setWidth (x : Word) (k : BitVec 4) : fieldSum (x ||| k.setWidth 32) = fieldSum x := by
  simp only [fieldSum, extractLsb'_or_setWidth_of_le x k _ (show 4 ≤ 4 by decide),
    extractLsb'_or_setWidth_of_le x k _ (show 4 ≤ 8 by decide),
    extractLsb'_or_setWidth_of_le x k _ (show 4 ≤ 12 by decide),
    extractLsb'_or_setWidth_of_le x k _ (show 4 ≤ 16 by decide),
    extractLsb'_or_setWidth_of_le x k _ (show 4 ≤ 20 by decide)]

/-- `fxcsum` keeps the bits of a field within [20:4] (R140). -/
theorem fxcsum_extractLsb' (x : Word) {b m : Nat} (hb : 4 ≤ b)
    (hmask : (0x1FFFF0#32).extractLsb' b m = BitVec.allOnes m) :
    (fxcsum x).extractLsb' b m = x.extractLsb' b m := by
  rw [fxcsum_eq, extractLsb'_or_setWidth_of_le _ _ _ hb, BitVec.extractLsb'_and, hmask, BitVec.and_allOnes]

theorem fxcsum_hasFlexWordChecksum (x : Word) : HasFlexWordChecksum (fxcsum x) := by
  have hclear : (x &&& 0x1FFFF0#32).setWidth 4 = 0 := setWidth_and_eq_zero (by decide) x
  rw [hasFlexWordChecksum_iff, fxcsum_eq, fieldSum_or_setWidth, setWidth_or_setWidth _ (by decide) hclear]
  refine ⟨?_, add_toNat_not_ofNat 4 _⟩
  have hhigh : (0x1FFFF0#32).extractLsb' 21 11 = 0#11 := by decide
  rw [extractLsb'_or_setWidth_of_le _ _ _ (by decide), BitVec.extractLsb'_and, hhigh]
  exact BitVec.and_zero

/-- Settles O30: FXCSUM is `fxcsum` of OP[0]. -/
theorem fxcsumCompletesWordChecksum : Obligations.FxcsumCompletesWordChecksum := fun s =>
  ⟨fxcsum s.op[0], rfl, fxcsum_extractLsb' _ (by decide) (by decide), fxcsum_hasFlexWordChecksum _⟩

/-! ### The words of the buffer -/

theorem words_eq {s : State} (h1 : 1 ≤ s.wbLen.toNat) (h2 : s.wbLen.toNat ≤ 128) :
    s.words = .ok (Memory.readList s.wb s.wbLen.toNat) :=
  (words_ok_iff s _).mpr ⟨⟨h1, h2⟩, rfl⟩

/-- The check of the buffer's length (R142, R144). -/
theorem words_eq_error {s : State} (h : s.wbLen.toNat = 0 ∨ 128 < s.wbLen.toNat) :
    s.words = .error (.inputValidation .length) := by
  have hlen : ¬ (0 < s.wbLen.toNat ∧ s.wbLen.toNat ≤ Config.wbMax) := by
    rw [Config.wbMax]
    omega
  simp only [State.words, decide_eq_false hlen, require_false, error_bind]

/-- The first word of a buffer, then the later ones. -/
theorem readList_succ (m : Memory 32) (n : Nat) :
    Memory.readList m (n + 1) = Memory.read m 0 :: (List.range n).map fun j => Memory.read m (j + 1) := by
  rw [Memory.readList, List.range_succ_eq_map, List.map_cons, List.map_map]
  rfl

theorem readList_write_zero (m : Memory 32) (v : Word) (n : Nat) :
    Memory.readList (m.write 0 v) (n + 1) = v :: (List.range n).map fun j => Memory.read m (j + 1) := by
  simp only [readList_succ, Memory.read_write, if_true, Nat.succ_ne_zero, if_false]

theorem read_write_zero_of_ne (m : Memory 32) (v : Word) {j : Nat} (hj : j ≠ 0) :
    Memory.read (m.write 0 v) j = Memory.read m j := by
  rw [Memory.read_write, if_neg hj]

theorem sum_map_readList (m : Memory 32) (n : Nat) :
    ((List.range (n + 1)).map fun j => (Memory.read m j &&& 0x1FFFFF#32).toNat).sum
      = messageSum 0x1FFFFF#32 (Memory.readList m (n + 1)) := by
  rw [readList_succ, messageSum, sumNat, List.range_succ_eq_map]
  simp [Function.comp_def]

/-! ### The alphanumeric message checksum -/

/-- The first word with the ten checksum bits put in its low bits (R142). -/
def withAlphaChecksum (w : Word) (k : BitVec 10) : Word := (w &&& 0xFFFFFC00#32) ||| k.setWidth 32

theorem withAlphaChecksum_and (w : Word) (k : BitVec 10) {mask : Word} (hmask : mask.setWidth 10 = BitVec.allOnes 10) :
    withAlphaChecksum w k &&& mask = (w &&& (0xFFFFFC00#32 &&& mask)) ||| k.setWidth 32 := by
  rw [withAlphaChecksum, BitVec.and_or_distrib_right, BitVec.and_assoc, setWidth_and_of_allOnes k hmask]

/-- A mask without the checksum bits does not see what they hold. -/
theorem withAlphaChecksum_and_of_zero (w : Word) (k : BitVec 10) {mask : Word} (hmask : mask.setWidth 10 = 0) :
    withAlphaChecksum w k &&& mask = w &&& (0xFFFFFC00#32 &&& mask) := by
  rw [withAlphaChecksum, BitVec.and_or_distrib_right, BitVec.and_assoc, BitVec.and_comm (k.setWidth 32),
    and_setWidth_eq_zero k hmask]
  exact BitVec.or_zero

/-- Putting the same checksum in again changes nothing (R142). -/
theorem withAlphaChecksum_withAlphaChecksum (w : Word) (k : BitVec 10) :
    withAlphaChecksum (withAlphaChecksum w k) k = withAlphaChecksum w k := by
  rw [withAlphaChecksum, withAlphaChecksum_and_of_zero w k (by decide), BitVec.and_self]
  rfl

theorem alphaK_withAlphaChecksum (w : Word) (ws : List Word) (k : BitVec 10) :
    alphaK (withAlphaChecksum w k :: ws) = alphaK (w :: ws) := by
  simp only [alphaK, messageSum, withAlphaChecksum_and_of_zero w k (show (0x1FFC00#32).setWidth 10 = 0 by decide)]
  rfl

theorem messageSum_withAlphaChecksum (w : Word) (ws : List Word) (k : BitVec 10) :
    messageSum 0x1FFFFF#32 (withAlphaChecksum w k :: ws) = messageSum 0x1FFC00#32 (w :: ws) + k.toNat := by
  have hclear : (w &&& (0xFFFFFC00#32 &&& 0x1FFFFF#32)).setWidth 10 = 0 := setWidth_and_eq_zero (by decide) w
  rw [messageSum, withAlphaChecksum_and w k (by decide), toNat_or_setWidth k (by decide) hclear, messageSum,
    Nat.add_right_comm]
  rfl

/-- Words and checksum add up to 1023 (R141). -/
theorem messageSum_add_alphaK (ws : List Word) : (messageSum 0x1FFC00#32 ws + (alphaK ws).toNat) % 1024 = 1023 :=
  add_toNat_not_ofNat 10 _

/-- The checksum FXASUM answers in a state (R142). -/
def State.alphaChecksum (s : State) : BitVec 10 := alphaK (Memory.readList s.wb s.wbLen.toNat)

/-- The state after FXASUM has run on a buffer of legal length (R142). -/
def State.afterFxasum (s : State) : State := State.reportOk { s with
  wb := s.wb.write 0 (withAlphaChecksum (Memory.read s.wb 0) s.alphaChecksum),
  res := s.res.set 0 (s.alphaChecksum.setWidth 32) } 0x21

theorem exec_fxasum {s : State} (h1 : 1 ≤ s.wbLen.toNat) (h2 : s.wbLen.toNat ≤ 128) :
    exec .fxasum s = .next s.afterFxasum := by
  simp only [exec, execFxasum, fxasumEffect, words_eq h1 h2, ok_bind, endCommand_ok]
  rfl

/-- The checksum is not among the bits it sums, so a second run finds the same one (R142). -/
theorem afterFxasum_alphaChecksum {s : State} (h1 : 1 ≤ s.wbLen.toNat) :
    s.afterFxasum.alphaChecksum = s.alphaChecksum := by
  obtain ⟨n, hn⟩ := Nat.exists_eq_add_of_le' h1
  change alphaK (Memory.readList (s.wb.write 0 _) s.wbLen.toNat) = alphaK (Memory.readList s.wb s.wbLen.toNat)
  rw [hn, readList_write_zero, readList_succ, alphaK_withAlphaChecksum]

theorem read_afterFxasum_zero (s : State) :
    Memory.read s.afterFxasum.wb 0 = withAlphaChecksum (Memory.read s.wb 0) s.alphaChecksum :=
  (Memory.read_write ..).trans (if_pos rfl)

theorem read_afterFxasum_of_ne (s : State) {j : Nat} (hj : j ≠ 0) :
    Memory.read s.afterFxasum.wb j = Memory.read s.wb j := read_write_zero_of_ne _ _ hj

/-- The words of the buffer add up to 1023 once FXASUM has run (R141). -/
theorem messageSum_afterFxasum {s : State} (h1 : 1 ≤ s.wbLen.toNat) :
    messageSum 0x1FFFFF#32 (Memory.readList s.afterFxasum.wb s.wbLen.toNat) % 1024 = 1023 := by
  obtain ⟨n, hn⟩ := Nat.exists_eq_add_of_le' h1
  have hwords : Memory.readList s.afterFxasum.wb (n + 1)
      = withAlphaChecksum (Memory.read s.wb 0) s.alphaChecksum
        :: (List.range n).map fun j => Memory.read s.wb (j + 1) :=
    readList_write_zero ..
  rw [hn, hwords, messageSum_withAlphaChecksum, ← readList_succ, State.alphaChecksum, hn]
  exact messageSum_add_alphaK _

/-- A second run of FXASUM leaves every word as the first one did (R142). -/
theorem read_afterFxasum_afterFxasum {s : State} (h1 : 1 ≤ s.wbLen.toNat) (j : Nat) :
    Memory.read s.afterFxasum.afterFxasum.wb j = Memory.read s.afterFxasum.wb j := by
  rcases eq_or_ne j 0 with rfl | hj
  · rw [read_afterFxasum_zero, afterFxasum_alphaChecksum h1, read_afterFxasum_zero,
      withAlphaChecksum_withAlphaChecksum]
  · exact read_afterFxasum_of_ne _ hj

/-- Settles O31: the state after FXASUM has the checksum in place, and a second run finds the same one. -/
theorem fxasumCompletesMessageChecksum : Obligations.FxasumCompletesMessageChecksum := by
  refine fun s => ⟨fun h1 h2 => ⟨s.alphaChecksum, s.afterFxasum, exec_fxasum h1 h2, rfl, read_afterFxasum_zero s,
    fun j => read_afterFxasum_of_ne s, ?_, fun u hu j => ?_⟩, fun h => ?_⟩
  · obtain ⟨n, hn⟩ := Nat.exists_eq_add_of_le' h1
    rw [hn, sum_map_readList, ← hn]
    exact messageSum_afterFxasum h1
  · have hrun : exec .fxasum s.afterFxasum = .next s.afterFxasum.afterFxasum := exec_fxasum h1 h2
    obtain rfl : s.afterFxasum.afterFxasum = u := Host.Outcome.next.inj (hrun.symm.trans hu)
    exact read_afterFxasum_afterFxasum h1 j
  · simp only [exec, execFxasum, fxasumEffect, words_eq_error h, error_bind, endCommand_error]
    rfl

/-! ### The numeric message checksum -/

/-- Words and checksum add up to 63 (R143). -/
theorem messageSum_add_numK (ws : List Word) : (messageSum 0x1FFFFC#32 ws + (numK ws).toNat) % 64 = 63 :=
  add_toNat_not_ofNat 6 _

/-- The sum of a buffer as R143 writes it: the first word without its bits [1:0], then the later words. -/
theorem messageSum_readList_succ (m : Memory 32) (n : Nat) :
    messageSum 0x1FFFFC#32 (Memory.readList m (n + 1)) = (Memory.read m 0 &&& 0x1FFFFC#32).toNat
      + ((List.range n).map fun j => (Memory.read m (j + 1) &&& 0x1FFFFF#32).toNat).sum := by
  simp [readList_succ, messageSum, sumNat, Function.comp_def]

/-- The two most significant of the six checksum bits (R144). -/
theorem checksum_ushiftRight_four (k : BitVec 6) : k.setWidth 32 >>> 4 = (k.extractLsb' 4 2).setWidth 32 := by
  apply BitVec.eq_of_toNat_eq
  simp only [BitVec.toNat_ushiftRight, BitVec.toNat_setWidth, BitVec.extractLsb'_toNat, Nat.shiftRight_eq_div_pow]
  omega

/-- The checksum FXNSUM answers in a state (R144). -/
def State.numChecksum (s : State) : BitVec 6 := numK (Memory.readList s.wb s.wbLen.toNat)

/-- The state after FXNSUM has run on a buffer of legal length (R144). -/
def State.afterFxnsum (s : State) : State := State.reportOk { s with
  wb := s.wb.write 0 ((Memory.read s.wb 0 &&& 0xFFFFFFFC#32) ||| (s.numChecksum.extractLsb' 4 2).setWidth 32),
  res := s.res.set 0 (s.numChecksum.setWidth 32) } 0x22

theorem exec_fxnsum {s : State} (h1 : 1 ≤ s.wbLen.toNat) (h2 : s.wbLen.toNat ≤ 128) :
    exec .fxnsum s = .next s.afterFxnsum := by
  simp only [exec, execFxnsum, fxnsumEffect, words_eq h1 h2, ok_bind, endCommand_ok, checksum_ushiftRight_four]
  rfl

/-- Settles O32: the state after FXNSUM holds the checksum's high bits, and the checksum completes the sum. -/
theorem fxnsumCompletesMessageChecksum : Obligations.FxnsumCompletesMessageChecksum := by
  refine fun s => ⟨fun h1 h2 => ⟨s.numChecksum, s.afterFxnsum, exec_fxnsum h1 h2, rfl,
    (Memory.read_write ..).trans (if_pos rfl), fun j => read_write_zero_of_ne _ _, ?_⟩, fun h => ?_⟩
  · obtain ⟨n, hn⟩ := Nat.exists_eq_add_of_le' h1
    rw [State.numChecksum, hn, Nat.add_sub_cancel, ← messageSum_readList_succ]
    exact messageSum_add_numK _
  · simp only [exec, execFxnsum, fxnsumEffect, words_eq_error h, error_bind, endCommand_error]
    rfl

/-! ### The GSC block checksum -/

/-- The sum of R145 as a register value. -/
theorem gscSum_setWidth (u : List (BitVec 7)) : (gscSum u).setWidth 32 = BitVec.ofNat 32 (sumNat u % 128) := by
  apply BitVec.eq_of_toNat_eq
  rw [gscSum, BitVec.toNat_setWidth, BitVec.toNat_ofNat, BitVec.toNat_ofNat]

/-- The units are the words' low seven bits (R146). -/
theorem sumNat_units (s : State) :
    sumNat s.units = ((List.range 7).map fun k => (Memory.read s.wb k).toNat % 128).sum := by
  rw [sumNat, State.units, Memory.readList, List.map_map, List.map_map]
  simp [Function.comp_def]

/-- Settles O33: GSCSUM answers `gsc_sum` of the units, which WB alone gives. -/
theorem gscsumAddsSevenUnits : Obligations.GscsumAddsSevenUnits := by
  intro s
  rw [← sumNat_units, ← gscSum_setWidth]
  rfl

end Sys2Proof.Machine
end

section
/-! PROOF. The commands of 42_queue.md: what PUSHBIT, PUSHRAW and PUSHBV append or why they do not, what POP drains,
and what DEPTH and EMPTY report (R160 to R169). -/

namespace Sys2Proof.Machine

/-! ### Repeated bits and counts -/

/-- Symbol `i` of a repeated sequence is the bit whose run of `r` it lies in (R160). -/
theorem repeatBits_getElem? {r : Nat} (hr : 0 < r) (x : List Bool) (i : Nat) : (repeatBits r x)[i]? = x[i / r]? := by
  induction x generalizing i with
  | nil => rfl
  | cons b x ih =>
    have hcons : repeatBits r (b :: x) = List.replicate r b ++ repeatBits r x := List.flatMap_cons
    rw [hcons]
    rcases Nat.lt_or_ge i r with hlt | hge
    · rw [List.getElem?_append_left (by simpa using hlt), List.getElem?_replicate, if_pos hlt, Nat.div_eq_of_lt hlt]
      rfl
    · rw [List.getElem?_append_right (by simpa using hge), List.length_replicate, ih, Nat.div_eq_sub_div hr hge,
        List.getElem?_cons_succ]

theorem repeatBits_singleton (r : Nat) (b : Bool) : repeatBits r [b] = List.replicate r b := List.flatMap_singleton ..

/-- A register's value, taken as a count, is that value again. -/
theorem countWord_toNat_self (v : Word) : countWord v.toNat = v := by
  rw [countWord_of_lt _ v.isLt, BitVec.ofNat_toNat, BitVec.setWidth_eq]

/-! ### PUSHBIT and PUSHBV -/

theorem requireConfigured_eq {s : State} (hc : s.cfgOk = true) : s.requireConfigured = .ok () :=
  (requireConfigured_ok_iff s ()).mpr hc

section PushBits

variable {s : State} {x : List Bool}

/-- A push with room in the FIFO appends each bit REPEAT times and answers their number (R160). -/
theorem endCommand_pushBits_of_le (h : s.fifo.length + x.length * s.repeatCount.toNat ≤ s.params.fifoCap)
    (opc : Byte) :
    s.endCommand opc (s.pushBits x) = State.reportOk { s with
      fifo := s.fifo ++ repeatBits s.repeatCount.toNat x,
      res := s.res.set 0 (countWord (x.length * s.repeatCount.toNat)) } opc := by
  rw [(pushBits_ok_iff s x _).mpr ⟨h, rfl⟩]
  rfl

/-- A push without room appends nothing (R160). -/
theorem endCommand_pushBits_of_lt (h : s.params.fifoCap < s.fifo.length + x.length * s.repeatCount.toNat)
    (opc : Byte) : s.endCommand opc (s.pushBits x) = s.reportError 6 0 opc := by
  rw [(pushBits_error_iff s x _).mpr ⟨h, rfl⟩]
  rfl

end PushBits

theorem exec_pushbit (s : State) : exec .pushbit s = .next (s.endCommand 0x30 (pushbitEffect s)) := rfl

theorem exec_pushbv (s : State) : exec .pushbv s = .next (s.endCommand 0x32 (pushbvEffect s)) := rfl

theorem pushbitEffect_eq {s : State} (hc : s.cfgOk = true) : pushbitEffect s = s.pushBits [s.op[0].getLsbD 0] := by
  rw [pushbitEffect, requireConfigured_eq hc, ok_bind]

theorem pushbvEffect_eq {s : State} (hc : s.cfgOk = true) : pushbvEffect s = s.pushBits s.bv := by
  rw [pushbvEffect, requireConfigured_eq hc, ok_bind]

/-- Settles O34: a push of one bit is REPEAT symbols. -/
theorem pushbitAppendsRepeatedBit : Obligations.PushbitAppendsRepeatedBit := by
  intro s hc
  have hlen : [s.op[0].getLsbD 0].length * s.repeatCount.toNat = s.repeatCount.toNat := Nat.one_mul _
  rw [exec_pushbit, pushbitEffect_eq hc]
  refine ⟨fun hroom => ?_, fun hfull => ?_⟩
  · rw [endCommand_pushBits_of_le (by rwa [hlen]), hlen, repeatBits_singleton, countWord_toNat_self]
  · rw [endCommand_pushBits_of_lt (by rwa [hlen])]

/-- Settles O36: the symbols pushed are BV's bits, each REPEAT times. -/
theorem pushbvAppendsRepeatedVector : Obligations.PushbvAppendsRepeatedVector := by
  intro s hc
  rw [exec_pushbv, pushbvEffect_eq hc]
  refine ⟨fun hroom => ⟨repeatBits s.repeatCount.toNat s.bv, ?_, repeatBits_length .., fun i hi => ?_⟩, fun hfull => ?_⟩
  · rw [endCommand_pushBits_of_le hroom]
  · have hrepeat : 0 < s.repeatCount.toNat := by
      rw [repeatBits_length] at hi
      exact Nat.pos_of_mul_pos_left (Nat.zero_lt_of_lt hi)
    exact repeatBits_getElem? hrepeat s.bv i
  · rw [endCommand_pushBits_of_lt hfull]

/-! ### PUSHRAW -/

@[simp] theorem rawBits_length (s : State) (n : Nat) : (s.rawBits n).length = n := by simp [State.rawBits]

/-- Bit 7 of a message byte comes first (R163). -/
theorem rawBits_getElem? (s : State) {n i : Nat} (hi : i < n) :
    (s.rawBits n)[i]? = some ((Memory.read s.msg (i / 8)).getLsbD (7 - i % 8)) := by
  simp [State.rawBits, hi]

/-- An append without repetition: overflow, or the bits themselves at the FIFO's tail (R161). -/
theorem fifoAppendRaw_eq (s : State) (x : List Bool) :
    s.fifoAppendRaw x =
      if s.params.fifoCap < s.fifo.length + x.length then .error .queueOverflow
      else .ok ({ s with fifo := s.fifo ++ x }, x.length) := by
  rw [State.fifoAppendRaw, appendSymbols_eq, Nat.mul_one, repeatBits_one]

/-- The counts PUSHRAW accepts: at least one bit, and no more than the message holds (R163). -/
abbrev State.RawCountLegal (s : State) : Prop :=
  s.msgLen.toNat ≤ Config.msgMax ∧ 0 < s.op[0].toNat ∧ s.op[0].toNat ≤ 8 * s.msgLen.toNat

/-- All PUSHRAW can do once configured: the length check, then the append (R163). -/
theorem pushrawEffect_eq {s : State} (hc : s.cfgOk = true) :
    pushrawEffect s =
      if s.RawCountLegal then
        if s.params.fifoCap < s.fifo.length + s.op[0].toNat then .error .queueOverflow
        else .ok (State.setRes { s with fifo := s.fifo ++ s.rawBits s.op[0].toNat } 0 s.op[0])
      else .error (.inputValidation .length) := by
  simp only [pushrawEffect, requireConfigured_eq hc, ok_bind, fifoAppendRaw_eq, rawBits_length]
  by_cases hlegal : s.RawCountLegal
  · rw [decide_eq_true hlegal, require_true, ok_bind, if_pos hlegal]
    split
    · rfl
    · rw [ok_bind, countWord_toNat_self]
  · rw [decide_eq_false hlegal, require_false, error_bind, if_neg hlegal]

theorem exec_pushraw (s : State) : exec .pushraw s = .next (s.endCommand 0x31 (pushrawEffect s)) := rfl

/-- Settles O35: the three outcomes of PUSHRAW's effect. -/
theorem pushrawAppendsMessageBits : Obligations.PushrawAppendsMessageBits := by
  intro s hc
  rw [exec_pushraw, pushrawEffect_eq hc]
  refine ⟨fun hmsg hpos hle hroom => ⟨s.rawBits s.op[0].toNat, ?_, rawBits_length .., fun i => rawBits_getElem? s⟩,
    fun hillegal => ?_, fun hmsg hpos hle hfull => ?_⟩
  · rw [if_pos ⟨hmsg, hpos, hle⟩, if_neg (Nat.not_lt.mpr hroom)]
    rfl
  · have hcount : ¬ s.RawCountLegal := by
      rintro ⟨hmsg, hpos, hle⟩
      rw [Config.msgMax] at hmsg
      omega
    rw [if_neg hcount]
    rfl
  · rw [if_pos ⟨hmsg, hpos, hle⟩, if_pos hfull]
    rfl

/-! ### POP -/

/-- The state after POP (R165). -/
def State.afterPop (s : State) : State := State.reportOk { s with
  out := Memory.writeList s.out 0 ((s.fifo.take s.popCount).map (symbolOf s.polInv)),
  fifo := s.fifo.drop s.popCount,
  res := s.res.set 0 (BitVec.ofNat 32 s.popCount) } 0x33

theorem exec_pop (s : State) : exec .pop s = .next s.afterPop := rfl

theorem popCount_le_length (s : State) : s.popCount ≤ s.fifo.length :=
  (Nat.min_le_left _ _).trans (Nat.min_le_right _ _)

/-- +1 for a bit that differs from POL_INV, -1 for one that equals it (R168). -/
theorem symbolOf_eq (p b : Bool) : symbolOf p b = if b ≠ p then 0x00000001#32 else 0xFFFFFFFF#32 := by
  cases p <;> cases b <;> rfl

/-- OUT after POP: the symbols taken, then what stood there (R165). -/
theorem read_afterPop_out (s : State) (k : Nat) :
    Memory.read s.afterPop.out k =
      if k < s.popCount then symbolOf s.polInv (s.fifo.getD k false) else Memory.read s.out k := by
  have hlen : ((s.fifo.take s.popCount).map (symbolOf s.polInv)).length = s.popCount := by
    simpa using popCount_le_length s
  refine (Memory.read_writeList ..).trans ?_
  simp only [hlen, Nat.zero_add, Nat.zero_le, true_and, Nat.sub_zero]
  split
  next hk =>
    have hfifo : k < s.fifo.length := Nat.lt_of_lt_of_le hk (popCount_le_length s)
    rw [List.getElem_map, List.getElem_take, List.getD_eq_getElem _ _ hfifo]
  next => rfl

/-- Settles O37: POP leaves `State.afterPop`. -/
theorem popDrainsOldestSymbols : Obligations.PopDrainsOldestSymbols := by
  rintro s _ rfl
  refine ⟨s.afterPop, exec_pop s, rfl, fun k => ?_⟩
  rw [read_afterPop_out, symbolOf_eq]
  rfl

/-! ### Two POPs in a row -/

@[simp] theorem afterPop_fifo (s : State) : s.afterPop.fifo = s.fifo.drop s.popCount := rfl

@[simp] theorem afterPop_polInv (s : State) : s.afterPop.polInv = s.polInv := rfl

theorem afterPop_res_zero (s : State) : s.afterPop.res[0].toNat = s.popCount := by
  have hres : s.afterPop.res[0] = BitVec.ofNat 32 s.popCount := Vector.getElem_set_self _
  have hlt : s.popCount < 2 ^ 32 := Nat.lt_of_le_of_lt (popCount_le s) (by decide)
  rw [hres, BitVec.toNat_ofNat, Nat.mod_eq_of_lt hlt]

/-- The state in which the host has asked for `n` symbols in OP[0]. -/
def State.requestPop (s : State) (n : Nat) : State := { s with op := s.op.set 0 (BitVec.ofNat 32 n) }

@[simp] theorem requestPop_fifo (s : State) (n : Nat) : (s.requestPop n).fifo = s.fifo := rfl

@[simp] theorem requestPop_polInv (s : State) (n : Nat) : (s.requestPop n).polInv = s.polInv := rfl

/-- A request within POP_MAX is bounded by the FIFO's depth alone (R165). -/
theorem popCount_requestPop (s : State) {n : Nat} (hn : n ≤ 1024) :
    (s.requestPop n).popCount = min n s.fifo.length := by
  have hop : (s.requestPop n).op[0].toNat = n := by
    have hset : (s.requestPop n).op[0] = BitVec.ofNat 32 n := Vector.getElem_set_self _
    rw [hset, BitVec.toNat_ofNat, Nat.mod_eq_of_lt (by omega)]
  rw [State.popCount, hop, requestPop_fifo, Config.popMax]
  omega

/-- Two requests take together what their sum takes (R169). -/
theorem popCount_add (s : State) {a b : Nat} (hab : a + b ≤ 1024) :
    (s.requestPop a).popCount + ((s.requestPop a).afterPop.requestPop b).popCount
      = (s.requestPop (a + b)).popCount := by
  rw [popCount_requestPop _ (show b ≤ 1024 by omega), afterPop_fifo, List.length_drop,
    popCount_requestPop s (show a ≤ 1024 by omega), popCount_requestPop s hab, requestPop_fifo]
  omega

/-- Settles O39: the second POP goes on in the FIFO where the first one stopped. -/
theorem splitPopsDrainAlike : Obligations.SplitPopsDrainAlike := by
  intro s t u v a b hab ht hu hv
  obtain rfl : (s.requestPop a).afterPop = t := Host.Outcome.next.inj ht
  obtain rfl : ((s.requestPop a).afterPop.requestPop b).afterPop = u := Host.Outcome.next.inj hu
  obtain rfl : (s.requestPop (a + b)).afterPop = v := Host.Outcome.next.inj hv
  have hcount := popCount_add s hab
  simp only [afterPop_res_zero]
  refine ⟨?_, hcount, fun k hk => ?_⟩
  · simp only [afterPop_fifo, requestPop_fifo, List.drop_drop, hcount]
  · rw [read_afterPop_out, if_pos hk]
    split
    next hfirst => simp only [read_afterPop_out, if_pos hfirst, requestPop_fifo, requestPop_polInv]
    next hsecond =>
      have hrest : k - (s.requestPop a).popCount < ((s.requestPop a).afterPop.requestPop b).popCount := by omega
      have hplace : (s.requestPop a).popCount + (k - (s.requestPop a).popCount) = k := by omega
      rw [read_afterPop_out, if_pos hrest]
      simp only [requestPop_fifo, requestPop_polInv, afterPop_fifo, afterPop_polInv, List.getD_eq_getElem?_getD,
        List.getElem?_drop, hplace]

/-! ### DEPTH and EMPTY -/

theorem exec_depth (s : State) :
    exec .depth s = .next (State.reportOk { s with res := s.res.set 0 (countWord s.fifo.length) } 0x34) := rfl

theorem memRead_fifoDepth (s : State) : s.memRead 0x0006#16 = countWord s.fifo.length :=
  memRead_regIndex s .fifoDepth

/-- The answer of EMPTY (R167). -/
theorem fifoEmpty_setWidth (s : State) :
    (BitVec.ofBool s.fifoEmpty).setWidth 32 = if s.fifo = [] then (1 : Word) else 0 := by
  rw [State.fifoEmpty]
  cases s.fifo <;> rfl

theorem exec_empty (s : State) :
    exec .empty s = .next (State.reportOk { s with res := s.res.set 0 (if s.fifo = [] then 1 else 0) } 0x35) := by
  rw [← fifoEmpty_setWidth]
  rfl

/-- Settles O38: DEPTH and EMPTY answer the two register views of the FIFO. -/
theorem depthAndEmptyReportFifo : Obligations.DepthAndEmptyReportFifo := by
  intro s
  obtain ⟨-, -, -, -, hempty, -⟩ := statusWord_fields s
  rw [memRead_fifoDepth]
  exact ⟨⟨exec_depth s, countWord_of_lt _⟩, exec_empty s, hempty⟩

end Sys2Proof.Machine
end

section
/-! PROOF. The POCSAG page (43_pocsag.md R190, R198 to R202): which bit stands where in it, and the commands TXPOCN and
TXPOCA that queue it or raise the first failing check. -/

namespace Sys2Proof.Machine

/-! ### The numeric character map -/

/-- A byte without a numeric code is no digit and none of the five other characters (R193). -/
theorem numMap_eq_none_iff (c : Byte) :
    numMap c = none ↔ ¬ (0x30#8 ≤ c ∧ c ≤ 0x39#8) ∧ c ≠ 0x55#8 ∧ c ≠ 0x20#8 ∧ c ≠ 0x2D#8 ∧ c ≠ 0x5D#8
      ∧ c ≠ 0x5B#8 := by
  simp only [numMap, ite_eq_iff, reduceCtorEq, and_false, false_or, and_true, ne_eq]

/-- Settles O40: the codes are read off the map, and the bytes left over are those it sends to none. -/
theorem numericCharactersMapAsStated : Obligations.NumericCharactersMapAsStated := by
  refine ⟨by decide, rfl, rfl, rfl, rfl, rfl, fun c => ?_⟩
  rw [numMap_eq_none_iff, not_and_or, BitVec.not_le, BitVec.not_le]

/-! ### Sequences of pieces of one length -/

/-- Place `c·k + i` of a sequence of pieces of length `c` is place `i` of piece `k`. -/
theorem flatMap_getElem? {α β : Type} (f : α → List β) {c i : Nat} (hi : i < c) (l : List α)
    (h : ∀ a ∈ l, (f a).length = c) {k : Nat} (hk : k < l.length) :
    (l.flatMap f)[c * k + i]? = (f l[k])[i]? := by
  induction l generalizing k with
  | nil => simp at hk
  | cons a l ih =>
    obtain ⟨ha, hl⟩ := List.forall_mem_cons.mp h
    rw [List.flatMap_cons]
    cases k with
    | zero => rw [List.getElem?_append_left (by omega), Nat.mul_zero, Nat.zero_add, List.getElem_cons_zero]
    | succ k =>
      have hplace : c * (k + 1) + i - c = c * k + i := by rw [Nat.mul_succ]; omega
      rw [List.getElem?_append_right (by rw [Nat.mul_succ]; omega), ha, hplace, ih hl (Nat.lt_of_succ_lt_succ hk),
        List.getElem_cons_succ]

theorem bitsMsb_getElem? {n i : Nat} (v : BitVec n) (hi : i < n) : (bitsMsb v)[i]? = some (v.getLsbD (n - 1 - i)) := by
  rw [List.getElem?_eq_getElem (by simpa using hi), bitsMsb_getElem]

/-! ### The slots and the bits of a page -/

/-- The slots, idle words after the last, are those of R198. -/
theorem pocsagSlots_getD (aw : Word) (off : Nat) (w : List Word) (j : Nat) :
    (pocsagSlots aw off w).getD j pocsagIdle = pocsagSlotWord aw off w j := by
  simp only [pocsagSlots, pocsagSlotWord, List.append_assoc, List.getD_eq_getElem?_getD]
  rcases Nat.lt_trichotomy j (2 * off) with hlt | rfl | hgt
  · rw [List.getElem?_append_left (by simpa using hlt), if_neg (by omega), if_neg (by omega)]
    simp [hlt, pocsagIdle]
  · rw [List.getElem?_append_right (by simp), if_pos rfl]
    simp
  · obtain ⟨k, rfl⟩ : ∃ k, j = 2 * off + (k + 1) := ⟨j - 2 * off - 1, by omega⟩
    rw [List.getElem?_append_right (by simp), if_neg (by omega), List.length_replicate, Nat.add_sub_cancel_left,
      List.singleton_append, List.getElem?_cons_succ, Nat.add_sub_cancel]
    by_cases hk : k < w.length
    · rw [List.getElem?_append_left hk, if_pos (by omega), List.getElem?_eq_getElem hk]
      rfl
    · rw [List.getElem?_append_right (by omega), if_neg (by omega), List.singleton_append, ← List.replicate_succ,
        List.getElem?_replicate]
      split <;> rfl

section Bits

variable {t : List Word} {k : Nat}

/-- The bits of one batch: the sync word, then its sixteen slots (R199). -/
def pocsagBatch (t : List Word) (k : Nat) : List Bool := bitsMsb pocsagSync ++ (chunk 16 k t).flatMap bitsMsb

theorem pocsagBatch_length (hk : k < t.length / 16) : (pocsagBatch t k).length = 544 := by
  have hlen : (chunk 16 k t).length = 16 := chunk_length 16 k t (by omega)
  rw [pocsagBatch, List.length_append, bitsMsb_length, flatMap_bitsMsb_length, hlen]

theorem pocsagBatch_sync {i : Nat} (hi : i < 32) :
    (pocsagBatch t k)[i]? = some ((0x7CD215D8#32).getLsbD (31 - i)) := by
  rw [pocsagBatch, List.getElem?_append_left (by simpa using hi), bitsMsb_getElem? _ hi]
  rfl

theorem pocsagBatch_slot (hk : k < t.length / 16) {j i : Nat} (hj : j < 16) (hi : i < 32) :
    (pocsagBatch t k)[32 + 32 * j + i]? = some ((t.getD (16 * k + j) pocsagIdle).getLsbD (31 - i)) := by
  have hlen : (chunk 16 k t).length = 16 := chunk_length 16 k t (by omega)
  have hslot : (chunk 16 k t)[j] = t.getD (16 * k + j) pocsagIdle := by
    rw [← Option.some_inj, ← List.getElem?_eq_getElem, chunk_getElem? 16 k t j hj,
      List.getD_eq_getElem _ _ (by omega), List.getElem?_eq_getElem]
  rw [pocsagBatch, Nat.add_assoc, List.getElem?_append_right (by simp), bitsMsb_length, Nat.add_sub_cancel_left,
    flatMap_getElem? bitsMsb hi _ (fun w _ => bitsMsb_length w) (by omega), bitsMsb_getElem? _ hi, hslot]

/-- The preamble alternates from a one (R190). -/
theorem pocsagBits_preamble {i : Nat} (hi : i < 576) : (pocsagBits t)[i]? = some (decide (i % 2 = 0)) := by
  rw [pocsagBits, List.getElem?_append_left (by simpa [pocsagPreamble] using hi)]
  simp [pocsagPreamble, hi, beq_eq_decide]

/-- After the preamble the batches follow one another (R199). -/
theorem pocsagBits_batch (hk : k < t.length / 16) {i : Nat} (hi : i < 544) :
    (pocsagBits t)[576 + 544 * k + i]? = (pocsagBatch t k)[i]? := by
  have hpre : pocsagPreamble.length = 576 := by simp [pocsagPreamble]
  have hpieces : ∀ b ∈ List.range (t.length / 16), (pocsagBatch t b).length = 544 := fun b hb =>
    pocsagBatch_length (List.mem_range.mp hb)
  have h := flatMap_getElem? (pocsagBatch t) hi _ hpieces (k := k) (by simpa using hk)
  rw [List.getElem_range] at h
  rw [pocsagBits, Nat.add_assoc, List.getElem?_append_right (by omega), hpre, Nat.add_sub_cancel_left]
  exact h

end Bits

/-- The address word that pages `cap` with the function bits `fb` (R191). -/
def pocsagAddressWord (cap : Word) (fb : BitVec 2) : Word :=
  bch31 (((cap >>> 3) <<< 13) ||| (fb.setWidth 32 <<< 11))

/-- The transmission that pages `cap` with the function bits `fb` and the message words `w` (R191, R198, R199). -/
def pocsagPage (cap : Word) (fb : BitVec 2) (w : List Word) : List Bool :=
  pocsagBits (pocsagSlots (pocsagAddressWord cap fb) (cap &&& 7#32).toNat w)

/-- The number of batches that hold the address in its frame, the message words and an idle word (R198). -/
def pocsagBatches (cap : Word) (n : Nat) : Nat := (2 * (cap.toNat % 8) + n + 2 + 15) / 16

theorem frameOffset_toNat (cap : Word) : (cap &&& 7#32).toNat = cap.toNat % 8 := by
  rw [BitVec.toNat_and]
  exact Nat.and_two_pow_sub_one_eq_mod _ 3

theorem pocsagSlots_frame_length (aw cap : Word) (w : List Word) :
    (pocsagSlots aw (cap &&& 7#32).toNat w).length = 16 * pocsagBatches cap w.length := by
  rw [pocsagSlots_length, frameOffset_toNat]
  rfl

theorem pocsagPage_length (cap : Word) (fb : BitVec 2) (w : List Word) :
    (pocsagPage cap fb w).length = 576 + 544 * pocsagBatches cap w.length := by
  rw [pocsagPage, pocsagBits_length, pocsagSlots_frame_length, Nat.mul_div_cancel_left _ (by decide)]

/-- Every bit of the page is that of R190, R198 and R199. -/
theorem pocsagPage_isPocsagPage (cap : Word) (fb : BitVec 2) (w : List Word) :
    IsPocsagPage (pocsagPage cap fb w) (pocsagBatches cap w.length) (pocsagAddressWord cap fb)
      (cap.toNat % 8) w := by
  have hslots : ∀ k < pocsagBatches cap w.length,
      k < (pocsagSlots (pocsagAddressWord cap fb) (cap &&& 7#32).toNat w).length / 16 := fun k hk => by
    rwa [pocsagSlots_frame_length, Nat.mul_div_cancel_left _ (by decide)]
  refine ⟨pocsagPage_length cap fb w, fun i => pocsagBits_preamble,
    fun k hk => ⟨fun i hi => ?_, fun j hj i hi => ?_⟩⟩
  · rw [pocsagPage, pocsagBits_batch (hslots k hk) (by omega), pocsagBatch_sync hi]
  · have hplace : 576 + 544 * k + 32 + 32 * j + i = 576 + 544 * k + (32 + 32 * j + i) := by omega
    rw [pocsagPage, hplace, pocsagBits_batch (hslots k hk) (by omega), pocsagBatch_slot (hslots k hk) hj hi,
      pocsagSlots_getD, frameOffset_toNat]

/-! ### The message words a page carries -/

/-- A message of mapped characters has its `ceil(L/5)` numeric words (R194). -/
theorem pocsagNumWords_eq {m : List Byte} {ks : List (BitVec 4)} (hks : m.map numMap = ks.map some) :
    ∃ w, pocsagNumWords m = .ok w ∧ w.length = (m.length + 4) / 5
      ∧ IsPocsagNumericMessage (w.getD · 0) w.length ks := by
  obtain ⟨w, hw⟩ : ∃ w, pocsagNumWords m = .ok w := ⟨_, (pocsagNumWords_ok_iff _ _).mpr ⟨ks, hks, rfl⟩⟩
  refine ⟨w, hw, ?_, pocsagNumWords_isNumericMessage hks hw⟩
  rw [pocsagNumWords_length m w hw, ceilDiv]
  omega

/-- A message of 7-bit characters has its `ceil(7(L+1)/20)` alphanumeric words (R195). -/
theorem pocsagAlphaWords_eq {m : List Byte} (hm : ∀ c ∈ m, c.toNat ≤ 0x7F) :
    ∃ w, pocsagAlphaWords m = .ok w ∧ w.length = (7 * (m.length + 1) + 19) / 20
      ∧ IsPocsagAlphaMessage (w.getD · 0) w.length m := by
  obtain ⟨w, hw, hmessage⟩ := pocsagAlphaWords_isAlphaMessage hm
  exact ⟨w, hw, pocsagAlphaWords_length m w hw, hmessage⟩

/-- Codes exist for a message of mapped bytes. -/
theorem exists_map_eq_map_some {α β : Type} {f : α → Option β} {m : List α} (h : ∀ c ∈ m, f c ≠ none) :
    ∃ ks : List β, m.map f = ks.map some := by
  induction m with
  | nil => exact ⟨[], rfl⟩
  | cons c m ih =>
    obtain ⟨hc, hm⟩ := List.forall_mem_cons.mp h
    obtain ⟨k, hk⟩ := Option.ne_none_iff_exists'.mp hc
    obtain ⟨ks, hks⟩ := ih hm
    exact ⟨k :: ks, by rw [List.map_cons, List.map_cons, hk, hks]⟩

/-! ### The checks of the frame commands -/

theorem requireConfigured_eq_error {s : State} (hc : s.cfgOk = false) :
    s.requireConfigured = .error (.configuration .notConfigured) := by
  rw [State.requireConfigured, hc, require_false]

theorem soleCapcode_eq {s : State} (h : s.capCount = 1) : s.soleCapcode = .ok s.cap[0] :=
  (soleCapcode_ok_iff s _).mpr ⟨h, rfl⟩

theorem soleCapcode_eq_error {s : State} (h : s.capCount ≠ 1) :
    s.soleCapcode = .error (.inputValidation .capCount) := by
  have hcount : (s.capCount == 1#32) = false := beq_false_of_ne h
  rw [State.soleCapcode, hcount, require_false, error_bind]

/-- What the first four checks of R202 let pass. -/
structure State.PocsagReady (s : State) : Prop where
  configured : s.cfgOk = true
  soleCapcode : s.capCount = 1
  capcodeInRange : s.cap[0].toNat ≤ 0x1FFFFF
  messageNonempty : 1 ≤ s.msgLen.toNat
  messageFits : s.msgLen.toNat ≤ 256

section FrameCommands

variable {s : State} {fb : BitVec 2} {build : List Byte → Except CmdError (List Word)} {w : List Word}

theorem pocsagFrame_notConfigured_error (hc : s.cfgOk = false) (opc : Byte) :
    s.endCommand opc (pocsagFrameEffect fb build s) = s.reportError 3 1 opc := by
  rw [pocsagFrameEffect, requireConfigured_eq_error hc]
  rfl

theorem pocsagFrame_capCount_error (hc : s.cfgOk = true) (hn : s.capCount ≠ 1) (opc : Byte) :
    s.endCommand opc (pocsagFrameEffect fb build s) = s.reportError 1 5 opc := by
  rw [pocsagFrameEffect, requireConfigured_eq hc, ok_bind, soleCapcode_eq_error hn]
  rfl

theorem pocsagFrame_capcodeRange_error (hc : s.cfgOk = true) (hn : s.capCount = 1) (hcap : 0x1FFFFF < s.cap[0].toNat)
    (opc : Byte) : s.endCommand opc (pocsagFrameEffect fb build s) = s.reportError 1 1 opc := by
  rw [pocsagFrameEffect, requireConfigured_eq hc, ok_bind, soleCapcode_eq hn, ok_bind, pocsagAddr_eq_error hcap]
  rfl

theorem pocsagFrame_length_error (hc : s.cfgOk = true) (hn : s.capCount = 1) (hcap : s.cap[0].toNat ≤ 0x1FFFFF)
    (hlen : s.msgLen.toNat = 0 ∨ 256 < s.msgLen.toNat) (opc : Byte) :
    s.endCommand opc (pocsagFrameEffect fb build s) = s.reportError 1 2 opc := by
  rw [pocsagFrameEffect, requireConfigured_eq hc, ok_bind, soleCapcode_eq hn, ok_bind, pocsagAddr_eq hcap, ok_bind,
    message_eq_error hlen]
  rfl

/-- Past the first four checks a frame command builds its words and queues their page (R200, R201). -/
theorem State.PocsagReady.effect_eq (h : s.PocsagReady) :
    pocsagFrameEffect fb build s
      = build (Memory.readList s.msg s.msgLen.toNat) >>= fun w => s.queueFrame (pocsagPage s.cap[0] fb w) := by
  rw [pocsagFrameEffect, requireConfigured_eq h.configured, ok_bind, soleCapcode_eq h.soleCapcode, ok_bind,
    pocsagAddr_eq h.capcodeInRange, ok_bind, message_eq h.messageNonempty h.messageFits, ok_bind]
  rfl

theorem pocsagFrame_character_error (h : s.PocsagReady)
    (hbuild : build (Memory.readList s.msg s.msgLen.toNat) = .error (.inputValidation .character)) (opc : Byte) :
    s.endCommand opc (pocsagFrameEffect fb build s) = s.reportError 1 3 opc := by
  rw [h.effect_eq, hbuild]
  rfl

theorem pocsagFrame_overflow_error (h : s.PocsagReady)
    (hbuild : build (Memory.readList s.msg s.msgLen.toNat) = .ok w)
    (hfull : s.params.fifoCap
      < s.fifo.length + (576 + 544 * pocsagBatches s.cap[0] w.length) * s.repeatCount.toNat) (opc : Byte) :
    s.endCommand opc (pocsagFrameEffect fb build s) = s.reportError 6 0 opc := by
  rw [h.effect_eq, hbuild, ok_bind, (queueFrame_error_iff ..).mpr ⟨by rwa [pocsagPage_length], rfl⟩]
  rfl

/-- With room for it the page is queued, and its bits and symbols are answered (R200, R201). -/
theorem pocsagFrame_completes (h : s.PocsagReady)
    (hbuild : build (Memory.readList s.msg s.msgLen.toNat) = .ok w) (hwords : w.length ≤ Config.wbMax)
    (hroom : s.fifo.length + (576 + 544 * pocsagBatches s.cap[0] w.length) * s.repeatCount.toNat
      ≤ s.params.fifoCap) (opc : Byte) :
    s.endCommand opc (pocsagFrameEffect fb build s) = State.reportOk { s with
      fifo := s.fifo ++ repeatBits s.repeatCount.toNat (pocsagPage s.cap[0] fb w),
      res := (s.res.set 1
          (countWord ((576 + 544 * pocsagBatches s.cap[0] w.length) * s.repeatCount.toNat))).set 0
        (BitVec.ofNat 32 (576 + 544 * pocsagBatches s.cap[0] w.length)) } opc := by
  have hcount : 576 + 544 * pocsagBatches s.cap[0] w.length < 2 ^ 32 := by
    rw [Config.wbMax] at hwords
    rw [pocsagBatches]
    omega
  rw [h.effect_eq, hbuild, ok_bind, (queueFrame_ok_iff ..).mpr ⟨by rwa [pocsagPage_length], rfl⟩, pocsagPage_length,
    countWord_of_lt _ hcount]
  rfl

end FrameCommands

/-! ### TXPOCN and TXPOCA -/

theorem exec_txpocn (s : State) :
    exec .txpocn s = .next (s.endCommand (opcode .txpocn) (pocsagFrameEffect 0b00#2 pocsagNumWords s)) := rfl

theorem exec_txpoca (s : State) :
    exec .txpoca s = .next (s.endCommand (opcode .txpoca) (pocsagFrameEffect 0b11#2 pocsagAlphaWords s)) := rfl

/-- Settles O44: the mapped message has its numeric words, and their page is queued. -/
theorem txpocnQueuesNumericPage : Obligations.TxpocnQueuesNumericPage := by
  rintro s m ks off n b rfl rfl hn rfl hc hsole hcap h1 h2 hks hroom
  obtain ⟨w, hw, hlen, hmessage⟩ := pocsagNumWords_eq hks
  rw [Memory.readList_length] at hlen
  obtain rfl : w.length = n := hlen.trans hn.symm
  have hwords : w.length ≤ Config.wbMax := by
    rw [hlen, Config.wbMax]
    omega
  refine ⟨_, _, w, ?_, pocsagPage_isPocsagPage s.cap[0] _ w, bch31_isPocsagAddress hcap _, rfl, hmessage⟩
  rw [exec_txpocn, pocsagFrame_completes ⟨hc, hsole, hcap, h1, h2⟩ hw hwords hroom]
  rfl

/-- Settles O45: 7-bit characters and EOT have their alphanumeric words, and their page is queued. -/
theorem txpocaQueuesAlphaPage : Obligations.TxpocaQueuesAlphaPage := by
  rintro s m off n b rfl rfl hn rfl hc hsole hcap h1 h2 hm hroom
  obtain ⟨w, hw, hlen, hmessage⟩ := pocsagAlphaWords_eq hm
  rw [Memory.readList_length] at hlen
  obtain rfl : w.length = n := hlen.trans hn.symm
  have hwords : w.length ≤ Config.wbMax := by
    rw [hlen, Config.wbMax]
    omega
  refine ⟨_, _, w, ?_, pocsagPage_isPocsagPage s.cap[0] _ w, bch31_isPocsagAddress hcap _, rfl, hmessage⟩
  rw [exec_txpoca, pocsagFrame_completes ⟨hc, hsole, hcap, h1, h2⟩ hw hwords hroom]
  rfl

/-- Both commands are the frame effect with a builder that refuses a message with a bad character and makes a fixed
number of words of any other (R194, R195, R200, R201). -/
theorem pocsagCommand_cases {i : Instr} (hi : i = .txpocn ∨ i = .txpoca) :
    ∃ fb build, (∀ s, exec i s = .next (s.endCommand (opcode i) (pocsagFrameEffect fb build s)))
      ∧ (∀ m, (∃ c ∈ m, if i = .txpocn then numMap c = none else 0x7F < c.toNat) →
          build m = .error (.inputValidation .character))
      ∧ ∀ m, (∀ c ∈ m, if i = .txpocn then numMap c ≠ none else c.toNat ≤ 0x7F) → ∃ w, build m = .ok w
          ∧ w.length = if i = .txpocn then (m.length + 4) / 5 else (7 * (m.length + 1) + 19) / 20 := by
  rcases hi with rfl | rfl
  · refine ⟨_, _, exec_txpocn, fun m => pocsagNumWords_eq_error, fun m hm => ?_⟩
    obtain ⟨ks, hks⟩ := exists_map_eq_map_some hm
    obtain ⟨w, hw, hlen, -⟩ := pocsagNumWords_eq hks
    exact ⟨w, hw, hlen⟩
  · refine ⟨_, _, exec_txpoca, fun m => pocsagAlphaWords_eq_error, fun m hm => ?_⟩
    obtain ⟨w, hw, hlen, -⟩ := pocsagAlphaWords_eq hm
    exact ⟨w, hw, hlen⟩

/-- Settles O46: one lemma for each check of the frame effect, the character check by the builder of the command. -/
theorem pocsagChecksComeInOrder : Obligations.PocsagChecksComeInOrder := by
  rintro i s m n b hi rfl hn rfl
  obtain ⟨fb, build, hexec, hbad, hgood⟩ := pocsagCommand_cases hi
  rw [hexec]
  refine ⟨fun hc => ?_, fun hc hsole => ?_, fun hc hsole hcap => ?_, fun hc hsole hcap hlen => ?_,
    fun hc hsole hcap h1 h2 hchar => ?_, fun hc hsole hcap h1 h2 hchar hfull => ?_⟩
  · rw [pocsagFrame_notConfigured_error hc]
  · rw [pocsagFrame_capCount_error hc hsole]
  · rw [pocsagFrame_capcodeRange_error hc hsole hcap]
  · rw [pocsagFrame_length_error hc hsole hcap hlen]
  · rw [pocsagFrame_character_error ⟨hc, hsole, hcap, h1, h2⟩ (hbad _ hchar)]
  · obtain ⟨w, hw, hlen⟩ := hgood _ hchar
    rw [Memory.readList_length] at hlen
    obtain rfl : w.length = n := hlen.trans hn.symm
    rw [pocsagFrame_overflow_error ⟨hc, hsole, hcap, h1, h2⟩ hw hfull]

end Sys2Proof.Machine
end

section
/-! PROOF. The interleaver of FLEX (44_flex.md R237, R238) and its control words (R224 to R230): which field of a
dataword an operand stands in, and the commands that answer the dataword with its codeword. -/

namespace Sys2Proof.Machine

/-! ### The interleaver -/

/-- Place `8·i + j` of the eight columns, read across the words, is bit `31 - i` of word `j` (R237). -/
theorem interleave_getElem? {ws : List Word} {i j : Nat} (hi : i < 32) (hj : j < ws.length) :
    (interleave ws)[ws.length * i + j]? = some (ws[j].getLsbD (31 - i)) := by
  rw [interleave, flatMap_getElem? _ hj _ (fun _ _ => List.length_map _) (by simpa using hi), List.getElem_range,
    List.getElem?_map, List.getElem?_eq_getElem hj, Option.map_some]

theorem interleave_readList_length (m : Memory 32) : (interleave (Memory.readList m 8)).length = 256 := by
  rw [interleave_length, Memory.readList_length]

theorem interleave_readList_getElem? (m : Memory 32) {i : Nat} (hi : i < 256) :
    (interleave (Memory.readList m 8))[i]? = some ((Memory.read m (i % 8)).getLsbD (31 - i / 8)) := by
  have hlen : (Memory.readList m 8).length = 8 := Memory.readList_length m 8
  have hplace : (Memory.readList m 8).length * (i / 8) + i % 8 = i := by rw [hlen, Nat.div_add_mod]
  conv_lhs => rw [← hplace]
  rw [interleave_getElem? (by omega) (by omega), Memory.readList_getElem]

theorem exec_intlv (s : State) : exec .intlv s = .next (s.endCommand 0x58 (intlvEffect s)) := rfl

theorem intlvEffect_eq {s : State} (hc : s.cfgOk = true) (hlen : s.wbLen = 8) :
    intlvEffect s = s.pushBits (interleave (Memory.readList s.wb 8)) := by
  rw [intlvEffect, requireConfigured_eq hc, ok_bind, hlen]
  rfl

/-- The check of the word count (R238). -/
theorem intlvEffect_eq_error {s : State} (hc : s.cfgOk = true) (hlen : s.wbLen ≠ 8) :
    intlvEffect s = .error (.invariantViolation .interleaveCount) := by
  have hcount : (s.wbLen == 8#32) = false := beq_false_of_ne hlen
  rw [intlvEffect, requireConfigured_eq hc, ok_bind, hcount, require_false, error_bind]

/-- Settles O52: the push of the 256 interleaved bits, after the check of the word count. -/
theorem intlvAppendsColumns : Obligations.IntlvAppendsColumns := by
  intro s hc
  rw [exec_intlv, ← interleave_readList_length s.wb]
  refine ⟨fun hlen hroom => ⟨_, ?_, rfl, fun i hi => ?_⟩, fun hlen => ?_, fun hlen hfull => ?_⟩
  · rw [intlvEffect_eq hc hlen, endCommand_pushBits_of_le hroom]
  · exact interleave_readList_getElem? s.wb (by rwa [interleave_readList_length] at hi)
  · rw [intlvEffect_eq_error hc hlen]
    rfl
  · rw [intlvEffect_eq hc hlen, endCommand_pushBits_of_lt hfull]

/-! ### Fields side by side in a word -/

section Fields

variable {b c m : Nat}

/-- A value shifted to a field reads back there. -/
theorem shiftLeft_extractLsb'_self (v : Nat) (h : b + m ≤ 32) :
    (BitVec.ofNat 32 v <<< b).extractLsb' b m = BitVec.ofNat m v := by
  apply extractLsb'_eq_of_getLsbD
  intro i hi
  have h32 : b + i < 32 := by omega
  have hi32 : i < 32 := by omega
  rw [BitVec.getLsbD_shiftLeft]
  rw [Nat.add_sub_cancel_left, BitVec.getLsbD_ofNat, BitVec.getLsbD_ofNat]
  simp [h32, hi, hi32]

/-- A field below the place a value is shifted to is clear. -/
theorem shiftLeft_extractLsb'_below (x : Word) (h : b + m ≤ c) : (x <<< c).extractLsb' b m = 0#m := by
  apply extractLsb'_eq_of_getLsbD
  intro i hi
  have hlow : b + i < c := by omega
  simp [hlow]

/-- A field above a value that fits below it is clear. -/
theorem shiftLeft_extractLsb'_above {v : Nat} (h : v < 2 ^ (b - c)) :
    (BitVec.ofNat 32 v <<< c).extractLsb' b m = 0#m := by
  apply extractLsb'_eq_of_getLsbD
  intro i hi
  have hbit : v.testBit (b + i - c) = false :=
    Nat.testBit_lt_two_pow (h.trans_le (Nat.pow_le_pow_right (by decide) (by omega)))
  rw [BitVec.getLsbD_shiftLeft, BitVec.getLsbD_ofNat, hbit, Bool.and_false, Bool.and_false, BitVec.getLsbD_zero]

/-- A field that a mask holds is kept. -/
theorem and_extractLsb'_of_allOnes {mask : Word} (h : mask.extractLsb' b m = BitVec.allOnes m) (x : Word) :
    (x &&& mask).extractLsb' b m = x.extractLsb' b m := by
  rw [BitVec.extractLsb'_and, h, BitVec.and_allOnes]

/-- A field that a mask does not touch is cleared. -/
theorem and_extractLsb'_of_zero {mask : Word} (h : mask.extractLsb' b m = 0#m) (x : Word) :
    (x &&& mask).extractLsb' b m = 0#m := by
  rw [BitVec.extractLsb'_and, h, BitVec.and_zero]

end Fields

/-! ### The control words -/

/-- The Block Info Word 1 of a vector start that fits its six bits (R225). -/
theorem biwDw_eq (p : Word) {v : Nat} (h : v ≤ 63) : ∃ d, biwDw p v = .ok d ∧ IsBlockInfoWord d p v := by
  refine ⟨_, (biwDw_ok_iff ..).mpr ⟨h, rfl⟩, fxcsum_hasFlexWordChecksum _, ?_, ?_, ?_⟩
  · rw [fxcsum_extractLsb' _ (by decide) (by decide), BitVec.extractLsb'_or, and_extractLsb'_of_allOnes (by decide),
      shiftLeft_extractLsb'_below _ (by decide), BitVec.or_zero]
  · rw [fxcsum_extractLsb' _ (by decide) (by decide), BitVec.extractLsb'_or, and_extractLsb'_of_zero (by decide),
      shiftLeft_extractLsb'_self _ (by decide), BitVec.zero_or]
  · rw [fxcsum_extractLsb' _ (by decide) (by decide), BitVec.extractLsb'_or, and_extractLsb'_of_allOnes (by decide),
      shiftLeft_extractLsb'_above (by omega), BitVec.or_zero]

theorem biwDw_eq_error (p : Word) {v : Nat} (h : 63 < v) : biwDw p v = .error (.inputValidation .fieldRange) := by
  rw [biwDw, decide_eq_false (Nat.not_le.mpr h), require_false, error_bind]

/-- A six-bit checksum's low nibble, as the numeric vector takes it (R227). -/
theorem ofNat_and_nibble (k : BitVec 6) :
    BitVec.ofNat 32 k.toNat &&& 0xF#32 = BitVec.ofNat 32 (k.extractLsb' 0 4).toNat := by
  apply BitVec.eq_of_toNat_eq
  rw [BitVec.ofNat_toNat, BitVec.ofNat_toNat, BitVec.toNat_and, BitVec.toNat_setWidth_of_le (by decide),
    BitVec.toNat_setWidth_of_le (by decide), BitVec.extractLsb'_toNat]
  exact Nat.and_two_pow_sub_one_eq_mod _ 4

/-- The numeric vector of operands in their ranges (R227). -/
theorem vecnDw_eq {b w : Nat} (hb : b ≤ 127) (hw1 : 1 ≤ w) (hw8 : w ≤ 8) (k : BitVec 6) :
    ∃ d, vecnDw b w k.toNat = .ok d ∧ IsNumericVector d b w k := by
  have hk : k.toNat ≤ 63 := Nat.le_of_lt_succ k.isLt
  refine ⟨_, (vecnDw_ok_iff ..).mpr ⟨⟨hb, hw1, hw8, hk⟩, rfl⟩, fxcsum_hasFlexWordChecksum _, ?_, ?_, ?_, ?_⟩
  all_goals rw [fxcsum_extractLsb' _ (by decide) (by decide), ofNat_and_nibble]
  all_goals simp (disch := omega) only [BitVec.extractLsb'_or, shiftLeft_extractLsb'_self, shiftLeft_extractLsb'_below,
    shiftLeft_extractLsb'_above, BitVec.or_zero, BitVec.zero_or]
  rw [BitVec.ofNat_toNat, BitVec.setWidth_eq]

theorem vecnDw_eq_error {b w k : Nat} (h : 127 < b ∨ w = 0 ∨ 8 < w ∨ 63 < k) :
    vecnDw b w k = .error (.inputValidation .fieldRange) := by
  have hrange : ¬ (b ≤ 127 ∧ 1 ≤ w ∧ w ≤ 8 ∧ k ≤ 63) := by omega
  rw [vecnDw, decide_eq_false hrange, require_false, error_bind]

/-- The alphanumeric vector of operands in their ranges (R229). -/
theorem vecaDw_eq {b w : Nat} (hb : b ≤ 127) (hw1 : 1 ≤ w) (hw127 : w ≤ 127) :
    ∃ d, vecaDw b w = .ok d ∧ IsAlphaVector d b w := by
  refine ⟨_, (vecaDw_ok_iff ..).mpr ⟨⟨hb, hw1, hw127⟩, rfl⟩, fxcsum_hasFlexWordChecksum _, ?_, ?_, ?_⟩
  all_goals rw [fxcsum_extractLsb' _ (by decide) (by decide)]
  all_goals simp (disch := omega) only [BitVec.extractLsb'_or, shiftLeft_extractLsb'_self, shiftLeft_extractLsb'_below,
    shiftLeft_extractLsb'_above, BitVec.or_zero, BitVec.zero_or]

theorem vecaDw_eq_error {b w : Nat} (h : 127 < b ∨ w = 0 ∨ 127 < w) :
    vecaDw b w = .error (.inputValidation .fieldRange) := by
  have hrange : ¬ (b ≤ 127 ∧ 1 ≤ w ∧ w ≤ 127) := by omega
  rw [vecaDw, decide_eq_false hrange, require_false, error_bind]

/-! ### The commands that answer a control word -/

section ControlWords

variable {s : State} {r : Except CmdError Word}

/-- A control dataword that passes its checks is answered with its codeword (R224, R226, R228, R230). -/
theorem controlWord_completes {P : Word → Prop} (h : ∃ d, r = .ok d ∧ P d) (opc : Byte) :
    ∃ d w : Word, (.next (s.endCommand opc (r >>= fun d => .ok (s.setControlWord d))) : Answer)
        = .next (State.reportOk { s with res := (s.res.set 1 d).set 0 w } opc)
      ∧ P d ∧ CarriesDataword w d := by
  obtain ⟨d, rfl, hd⟩ := h
  exact ⟨d, fcw d, rfl, hd, fcw_carriesDataword d⟩

theorem controlWord_fieldRange_error (h : r = .error (.inputValidation .fieldRange)) (opc : Byte) :
    s.endCommand opc (r >>= fun d => .ok (s.setControlWord d)) = s.reportError 1 7 opc := by
  rw [h]
  rfl

end ControlWords

theorem exec_fbiw (s : State) : exec .fbiw s
    = .next (s.endCommand 0x53 (biwDw s.op[0] s.op[1].toNat >>= fun d => .ok (s.setControlWord d))) := rfl

theorem exec_fvecn (s : State) : exec .fvecn s
    = .next (s.endCommand 0x54
        (vecnDw s.op[0].toNat s.op[1].toNat s.op[2].toNat >>= fun d => .ok (s.setControlWord d))) := rfl

theorem exec_fveca (s : State) : exec .fveca s
    = .next (s.endCommand 0x55 (vecaDw s.op[0].toNat s.op[1].toNat >>= fun d => .ok (s.setControlWord d))) := rfl

/-- Settles O48: FFIW has no check, and FBIW has the one of its vector start. -/
theorem infoWordsAreCheckedAndCoded : Obligations.InfoWordsAreCheckedAndCoded := by
  refine fun s => ⟨⟨fxcsum s.op[0], fcw (fxcsum s.op[0]), rfl, fxcsum_hasFlexWordChecksum _,
    fxcsum_extractLsb' _ (by decide) (by decide), fcw_carriesDataword _⟩, fun h => ?_, fun h => ?_⟩
  · rw [exec_fbiw]
    exact controlWord_completes (biwDw_eq _ h) _
  · rw [exec_fbiw, controlWord_fieldRange_error (biwDw_eq_error _ h)]

/-- Settles O49: a vector's dataword exists exactly for operands in their ranges. -/
theorem vectorWordsAreCheckedAndCoded : Obligations.VectorWordsAreCheckedAndCoded := by
  refine fun s => ⟨fun hb hw1 hw8 hk => ?_, fun h => ?_, fun hb hw1 hw127 => ?_, fun h => ?_⟩
  · have hchecksum : (s.op[2].extractLsb' 0 6).toNat = s.op[2].toNat := by
      rw [BitVec.extractLsb'_toNat, Nat.shiftRight_zero, Nat.mod_eq_of_lt (Nat.lt_succ_of_le hk)]
    rw [exec_fvecn, ← hchecksum]
    exact controlWord_completes (vecnDw_eq hb hw1 hw8 _) _
  · rw [exec_fvecn, controlWord_fieldRange_error (vecnDw_eq_error h)]
  · rw [exec_fveca]
    exact controlWord_completes (vecaDw_eq hb hw1 hw127) _
  · rw [exec_fveca, controlWord_fieldRange_error (vecaDw_eq_error h)]

end Sys2Proof.Machine
end

section
/-! PROOF. The message words of FLEX (44_flex.md R231 to R236): which digit, character or checksum bit stands where in
them, and the commands FMSGN and FMSGA that write them to WB. -/

namespace Sys2Proof.Machine

/-! ### Words of a list -/

/-- A sum over the words of a list by their places. -/
theorem sum_map_range_getD (ws : List Word) :
    ((List.range ws.length).map fun j => (ws.getD j 0).toNat).sum = (ws.map BitVec.toNat).sum := by
  congr 1
  apply List.ext_getElem
  · simp
  · intro i h1 h2
    simp at h1
    simp [h1]

/-- Whole datawords of 21 bits are not changed by their mask. -/
theorem and_dataword_mask {w : Word} (h : w.extractLsb' 21 11 = 0) : w &&& 0x1FFFFF#32 = w := by
  have hhigh : ∀ i < 11, w.getLsbD (21 + i) = false := fun i hi => by
    simpa [hi] using congrArg (·.getLsbD i) h
  have hmask : ∀ i < 21, (0x1FFFFF#32).getLsbD i = true := by decide
  apply BitVec.eq_of_getLsbD_eq
  intro i hi
  rw [BitVec.getLsbD_and]
  rcases Nat.lt_or_ge i 21 with hlow | hge
  · rw [hmask i hlow, Bool.and_true]
  · obtain ⟨j, rfl⟩ := Nat.exists_eq_add_of_le hge
    rw [hhigh j (by omega), Bool.false_and]

/-- What R141 and R143 sum of a message of 21-bit words. -/
theorem messageSum_cons {mask w : Word} {ws : List Word} (h : ∀ x ∈ ws, x.extractLsb' 21 11 = 0) :
    messageSum mask (w :: ws) = (w &&& mask).toNat + (ws.map BitVec.toNat).sum := by
  rw [messageSum, sumNat, List.map_congr_left fun x hx => and_dataword_mask (h x hx), List.map_id']

/-- A property of every word of a list, by its places. -/
theorem forall_getD_of_forall_mem {P : Word → Prop} {ws : List Word} (h : ∀ x ∈ ws, P x) :
    ∀ j < ws.length, P (ws.getD j 0) := by
  intro j hj
  rw [List.getD_eq_getElem _ _ hj]
  exact h _ (List.getElem_mem hj)

/-! ### The numeric message -/

/-- Filling after a first bit. -/
theorem fillTo_cons (n : Nat) (f : Nat → Bool) (b : Bool) (x : List Bool) :
    fillTo (n + 1) f (b :: x) = b :: fillTo n (fun i => f (i + 1)) x := by
  simp only [fillTo, List.length_cons, Nat.add_sub_add_right, List.cons_append, Nat.add_right_comm]

/-- The number of words of a numeric message of `l` digits (R231). -/
def flexNumCount (l : Nat) : Nat := ceilDiv (2 + 4 * l) 21

/-- The bits of a numeric message: the place of two checksum bits, the digits, the space code (R231). -/
def flexNumBits (ks : List (BitVec 4)) : List Bool :=
  fillTo (21 * flexNumCount ks.length) (fun i => spaceCode.getLsbD ((i - 2) % 4)) ([false, false] ++ ks.flatMap bitsLsb)

/-- The datawords of a numeric message before its checksum is put in (R231). -/
def flexNumDatawords (ks : List (BitVec 4)) : List Word :=
  (List.range (flexNumCount ks.length)).map fun j => ofBitsLsb 32 (chunk 21 j (flexNumBits ks))

theorem flexNumWords_eq_datawords {m : List Byte} {ks : List (BitVec 4)} (hm : m.length ≤ 41)
    (hks : m.map numMap = ks.map some) :
    flexNumWords m = .ok ((flexNumDatawords ks).modifyHead
      (· ||| ((numK (flexNumDatawords ks)).setWidth 32 >>> 4)), numK (flexNumDatawords ks)) := by
  have hlen : m.length = ks.length := by simpa using congrArg List.length hks
  rw [flexNumWords, decide_eq_true hm, require_true, ok_bind, (encodeChars_ok_iff ..).mpr hks, ok_bind, hlen]
  rfl

theorem flexNumCount_pos (l : Nat) : 0 < flexNumCount l := by
  rw [flexNumCount, ceilDiv]
  omega

/-- The bits of a numeric message: two clear bits, then the codes, then the space code. -/
theorem flexNumBits_eq (ks : List (BitVec 4)) :
    flexNumBits ks = false :: false :: fillTo (21 * flexNumCount ks.length - 2) (fun i => spaceCode.getLsbD (i % 4))
      (ks.flatMap bitsLsb) := by
  obtain ⟨n, hn⟩ : ∃ n, 21 * flexNumCount ks.length = n + 1 + 1 :=
    ⟨21 * flexNumCount ks.length - 2, by have := flexNumCount_pos ks.length; omega⟩
  rw [flexNumBits, hn, List.cons_append, fillTo_cons, List.cons_append, fillTo_cons]
  rfl

theorem flexNumBits_getD_digit (ks : List (BitVec 4)) {p : Nat} (hp : p < 21 * flexNumCount ks.length - 2) :
    (flexNumBits ks).getD (p + 2) false = (ks.getD (p / 4) 0xC#4).getLsbD (p % 4) := by
  rw [flexNumBits_eq, List.getD_cons_succ, List.getD_cons_succ, fillTo_codes_getD ks spaceCode hp, spaceCode]

section NumDatawords

variable {ks : List (BitVec 4)} {j b : Nat}

@[simp] theorem flexNumDatawords_length : (flexNumDatawords ks).length = flexNumCount ks.length := by
  simp [flexNumDatawords]

/-- Bit `b` of dataword `j` is bit `21·j + b` of the message (R231). -/
theorem flexNumDatawords_getLsbD (hj : j < flexNumCount ks.length) (hb : b < 21) :
    ((flexNumDatawords ks).getD j 0).getLsbD b = (flexNumBits ks).getD (21 * j + b) false := by
  have h32 : b < 32 := by omega
  rw [List.getD_eq_getElem _ _ (by simpa using hj)]
  simp only [flexNumDatawords, List.getElem_map, List.getElem_range]
  rw [ofBitsLsb_getLsbD, decide_eq_true h32, Bool.true_and, List.getD_eq_getElem?_getD, chunk_getElem? 21 j _ b hb,
    List.getD_eq_getElem?_getD]

/-- Bit `p` of the digits stands after the checksum's two places (R231). -/
theorem flexNumDatawords_digit {p : Nat} (hp : p < 21 * flexNumCount ks.length - 2) :
    ((flexNumDatawords ks).getD ((p + 2) / 21) 0).getLsbD ((p + 2) % 21)
      = (ks.getD (p / 4) 0xC#4).getLsbD (p % 4) := by
  rw [flexNumDatawords_getLsbD (by omega) (Nat.mod_lt _ (by decide)), Nat.div_add_mod, flexNumBits_getD_digit ks hp]

theorem flexNumDatawords_high : ∀ x ∈ flexNumDatawords ks, x.extractLsb' 21 11 = 0 := by
  simp only [flexNumDatawords, List.mem_map]
  rintro x ⟨j, -, rfl⟩
  apply extractLsb'_eq_of_getLsbD
  intro i hi
  have hlen : (chunk 21 j (flexNumBits ks)).length ≤ 21 + i := by simp [chunk]
  rw [ofBitsLsb_getLsbD, List.getD_eq_default _ _ hlen, Bool.and_false]
  exact BitVec.getLsbD_zero.symm

/-- The checksum's two places are clear before it is put in. -/
theorem flexNumDatawords_low : ((flexNumDatawords ks).getD 0 0).setWidth 2 = 0 := by
  rw [BitVec.setWidth_eq_extractLsb' (by decide)]
  apply extractLsb'_eq_of_getLsbD
  intro i hi
  rw [flexNumDatawords_getLsbD (flexNumCount_pos _) (by omega), flexNumBits_eq]
  rcases (by omega : i = 0 ∨ i = 1) with rfl | rfl
  · rfl
  · rfl

end NumDatawords

/-- A mask without the places of a low field does not see it. -/
theorem or_setWidth_and_of_zero {n : Nat} {mask : Word} (hmask : mask.setWidth n = 0) (w : Word) (k : BitVec n) :
    (w ||| k.setWidth 32) &&& mask = w &&& mask := by
  rw [BitVec.and_or_distrib_right, BitVec.and_comm (k.setWidth 32), and_setWidth_eq_zero k hmask]
  exact BitVec.or_zero

/-- A bit above a low field of the first word, or in a later word, is not changed by the field. -/
theorem getD_or_setWidth_cons_getLsbD {n j b : Nat} (w : Word) (ws : List Word) (k : BitVec n) (h : j = 0 → n ≤ b) :
    (((w ||| k.setWidth 32) :: ws).getD j 0).getLsbD b = ((w :: ws).getD j 0).getLsbD b := by
  cases j with
  | zero => rw [List.getD_cons_zero, List.getD_cons_zero, BitVec.getLsbD_or, getLsbD_setWidth_of_ge k (h rfl),
      Bool.or_false]
  | succ j => rw [List.getD_cons_succ, List.getD_cons_succ]

/-- A low field of the first word keeps every word within its 21 bits. -/
theorem forall_or_setWidth_cons_high {n : Nat} {w : Word} {ws : List Word} (k : BitVec n) (hn : n ≤ 21)
    (h : ∀ x ∈ w :: ws, x.extractLsb' 21 11 = 0) :
    ∀ x ∈ (w ||| k.setWidth 32) :: ws, x.extractLsb' 21 11 = 0 := by
  obtain ⟨hw, hws⟩ := List.forall_mem_cons.mp h
  exact List.forall_mem_cons.mpr ⟨(extractLsb'_or_setWidth_of_le w k 11 hn).trans hw, hws⟩

/-- The datawords with the checksum's high bits put in are the numeric message of R231. -/
theorem flexNumDatawords_isNumericMessage (ks : List (BitVec 4)) :
    IsFlexNumericMessage
      (((flexNumDatawords ks).modifyHead (· ||| ((numK (flexNumDatawords ks)).setWidth 32 >>> 4))).getD · 0)
      (flexNumCount ks.length) ks (numK (flexNumDatawords ks)) := by
  have hhigh := flexNumDatawords_high (ks := ks)
  have hlow := flexNumDatawords_low (ks := ks)
  have hlen := flexNumDatawords_length (ks := ks)
  have hdigit := fun p => flexNumDatawords_digit (ks := ks) (p := p)
  have hpos := flexNumCount_pos ks.length
  generalize flexNumDatawords ks = ds at *
  cases ds with
  | nil => simp at hlen; omega
  | cons w ws =>
    rw [List.modifyHead_cons, checksum_ushiftRight_four, ← hlen]
    rw [List.getD_cons_zero] at hlow
    have hhigh' := forall_or_setWidth_cons_high ((numK (w :: ws)).extractLsb' 4 2) (by decide) hhigh
    refine ⟨fun j hj => forall_getD_of_forall_mem hhigh' j (by simpa using hj), ?_, fun p hp => ?_, ?_⟩
    · rw [← BitVec.setWidth_eq_extractLsb' (by decide)]
      exact setWidth_or_setWidth _ (by decide) hlow
    · rw [getD_or_setWidth_cons_getLsbD w ws _ (by omega)]
      exact hdigit p (by omega)
    · have hsum := messageSum_add_numK (w :: ws)
      rw [messageSum_cons (List.forall_mem_cons.mp hhigh).2] at hsum
      simp only [List.getD_cons_zero, List.getD_cons_succ, List.length_cons, Nat.add_sub_cancel]
      rw [sum_map_range_getD, or_setWidth_and_of_zero (by decide)]
      exact hsum

/-- A message of at most 41 mapped characters has its `ceil((2 + 4D)/21)` datawords and their checksum (R231). -/
theorem flexNumWords_eq {m : List Byte} {ks : List (BitVec 4)} (hm : m.length ≤ 41) (hks : m.map numMap = ks.map some) :
    ∃ w k, flexNumWords m = .ok (w, k) ∧ w.length = (2 + 4 * m.length + 20) / 21
      ∧ IsFlexNumericMessage (w.getD · 0) w.length ks k := by
  have hlen : m.length = ks.length := by simpa using congrArg List.length hks
  refine ⟨_, _, flexNumWords_eq_datawords hm hks, ?_, ?_⟩
  · rw [List.length_modifyHead, flexNumDatawords_length, hlen, flexNumCount, ceilDiv]
    rfl
  · rw [List.length_modifyHead, flexNumDatawords_length]
    exact flexNumDatawords_isNumericMessage ks

/-- The check of the number of digits (R231). -/
theorem flexNumWords_length_error {m : List Byte} (h : 41 < m.length) :
    flexNumWords m = .error (.inputValidation .length) := by
  rw [flexNumWords, decide_eq_false (Nat.not_le.mpr h), require_false, error_bind]

theorem flexNumWords_character_error {m : List Byte} (hm : m.length ≤ 41) (h : ∃ c ∈ m, numMap c = none) :
    flexNumWords m = .error (.inputValidation .character) := by
  rw [flexNumWords, decide_eq_true hm, require_true, ok_bind, (encodeChars_error_iff ..).mpr ⟨h, rfl⟩, error_bind]

/-! ### The alphanumeric message -/

/-- The three fields by their places. -/
theorem pack3_eq (a b c : BitVec 7) :
    pack3 a b c = (BitVec.ofNat 32 a.toNat <<< 0) ||| (BitVec.ofNat 32 b.toNat <<< 7)
      ||| (BitVec.ofNat 32 c.toNat <<< 14) := by
  rw [pack3, BitVec.ofNat_toNat, BitVec.ofNat_toNat, BitVec.ofNat_toNat, BitVec.shiftLeft_zero]

/-- Field `c` of three packed 7-bit fields (R233). -/
theorem pack3_extractLsb' (f : Nat → BitVec 7) {c : Nat} (hc : c < 3) :
    (pack3 (f 0) (f 1) (f 2)).extractLsb' (7 * c) 7 = f c := by
  have hfield : ∀ i, (f i).toNat < 128 := fun i => (f i).isLt
  have hself : ∀ i, BitVec.ofNat 7 (f i).toNat = f i := fun i => by rw [BitVec.ofNat_toNat, BitVec.setWidth_eq]
  have h0 := hfield 0
  have h1 := hfield 1
  rw [pack3_eq]
  rcases (by omega : c = 0 ∨ c = 1 ∨ c = 2) with rfl | rfl | rfl
  all_goals simp (disch := omega) only [BitVec.extractLsb'_or, shiftLeft_extractLsb'_self, shiftLeft_extractLsb'_below,
    shiftLeft_extractLsb'_above, BitVec.or_zero, BitVec.zero_or, hself]

theorem pack3_high (a b c : BitVec 7) : (pack3 a b c).extractLsb' 21 11 = 0 := by
  have ha := a.isLt
  have hb := b.isLt
  have hc := c.isLt
  rw [pack3_eq]
  simp (disch := omega) only [BitVec.extractLsb'_or, shiftLeft_extractLsb'_above, BitVec.or_zero]
  rfl

/-- The characters of words 1 on: the signature first, then the message (R233). -/
theorem flexAlphaWord_eq (sig : BitVec 7) (q : List (BitVec 7)) (j : Nat) :
    flexAlphaWord sig q (j + 1) = pack3 ((sig :: q).getD (3 * j) flexEtx) ((sig :: q).getD (3 * j + 1) flexEtx)
      ((sig :: q).getD (3 * j + 2) flexEtx) := by
  cases j with
  | zero => rfl
  | succ j =>
    have h1 : 3 * (j + 1 + 1) - 4 = 3 * j + 2 := by omega
    have h2 : 3 * (j + 1 + 1) - 3 = 3 * j + 3 := by omega
    have h3 : 3 * (j + 1 + 1) - 2 = 3 * j + 4 := by omega
    rw [flexAlphaWord, if_neg (by omega), h1, h2, h3]
    rfl

/-- The character slots of a message: its characters, then ETX (R233). -/
def flexAlphaSlots (m : List Byte) : List (BitVec 7) :=
  m.map (fun c => c.setWidth 7) ++ List.replicate (3 * flexAlphaCount m.length - 4 - m.length) flexEtx

theorem flexAlphaSlots_getD (m : List Byte) (i : Nat) :
    (flexAlphaSlots m).getD i flexEtx = (m.getD i 0x03#8).setWidth 7 := by
  have hetx : flexEtx = (0x03#8).setWidth 7 := rfl
  rw [flexAlphaSlots]
  rcases Nat.lt_or_ge i m.length with hlt | hge
  · rw [List.getD_append _ _ _ _ (by simpa using hlt), hetx, List.getD_map]
  · rw [List.getD_append_right _ _ _ _ (by simpa using hge), List.getD_eq_getElem?_getD,
      List.getElem?_getD_replicate_default_eq, List.getD_eq_default _ _ hge]
    rfl

/-- The words after the header (R233). -/
def flexAlphaBody (p : Params) (m : List Byte) : List Word :=
  (List.range (flexAlphaCount m.length - 1)).map fun j => flexAlphaWord (flexSig p m) (flexAlphaSlots m) (j + 1)

/-- The datawords of an alphanumeric message before its checksum is put in (R233, R234). -/
def flexAlphaDatawords (p : Params) (m : List Byte) (h : Word) : List Word :=
  (h &&& 0x1FFC00#32) :: flexAlphaBody p m

/-- 7-bit characters are mapped to their low bits (R233). -/
theorem encodeChars_asciiMap {m : List Byte} (hm : ∀ c ∈ m, c.toNat ≤ 0x7F) :
    encodeChars asciiMap m = .ok (m.map fun c => c.setWidth 7) := by
  rw [encodeChars_ok_iff, List.map_map]
  exact List.map_congr_left fun c hc => asciiMap_of_le (hm c hc)

theorem flexAlphaWords_eq_datawords (p : Params) {m : List Byte} (h : Word) (hlen : m.length ≤ 252)
    (hm : ∀ c ∈ m, c.toNat ≤ 0x7F) :
    flexAlphaWords p m h = .ok (((h &&& 0x1FFC00#32) ||| (alphaK (flexAlphaDatawords p m h)).setWidth 32)
      :: flexAlphaBody p m, alphaK (flexAlphaDatawords p m h)) := by
  rw [flexAlphaWords, decide_eq_true hlen, require_true, ok_bind, encodeChars_asciiMap hm, ok_bind]
  rfl

section AlphaBody

variable {p : Params} {m : List Byte}

theorem flexAlphaBody_length : (flexAlphaBody p m).length + 1 = flexAlphaCount m.length := by
  have h2 := (flexAlphaCount_least m.length).1
  rw [flexAlphaBody, List.length_map, List.length_range]
  omega

/-- Field `c` of word `j + 1` is entry `3·j + c` of the signature and the characters (R233). -/
theorem flexAlphaBody_field {j c : Nat} (hj : j < (flexAlphaBody p m).length) (hc : c < 3) :
    ((flexAlphaBody p m).getD j 0).extractLsb' (7 * c) 7
      = (flexSig p m :: flexAlphaSlots m).getD (3 * j + c) flexEtx := by
  rw [List.getD_eq_getElem _ _ hj]
  simp only [flexAlphaBody, List.getElem_map, List.getElem_range, flexAlphaWord_eq]
  exact pack3_extractLsb' (fun c => (flexSig p m :: flexAlphaSlots m).getD (3 * j + c) flexEtx) hc

theorem flexAlphaBody_high : ∀ x ∈ flexAlphaBody p m, x.extractLsb' 21 11 = 0 := by
  simp only [flexAlphaBody, List.mem_map, flexAlphaWord_eq]
  rintro x ⟨j, -, rfl⟩
  exact pack3_high _ _ _

/-- Word 1 begins with the signature (R233, R236). -/
theorem flexAlphaBody_signature : ((flexAlphaBody p m).getD 0 0).extractLsb' 0 7 = flexSig p m := by
  have h2 := (flexAlphaCount_least m.length).1
  have hlen := flexAlphaBody_length (p := p) (m := m)
  exact flexAlphaBody_field (c := 0) (by omega) (by decide)

/-- Character `i` stands after the signature (R233). -/
theorem flexAlphaBody_character {i : Nat} (hi : i < 3 * flexAlphaCount m.length - 4) :
    ((flexAlphaBody p m).getD ((i + 1) / 3) 0).extractLsb' (7 * ((i + 1) % 3)) 7 = (m.getD i 0x03#8).setWidth 7 := by
  have hlen := flexAlphaBody_length (p := p) (m := m)
  rw [flexAlphaBody_field (by omega) (Nat.mod_lt _ (by decide)), Nat.div_add_mod, List.getD_cons_succ,
    flexAlphaSlots_getD]

end AlphaBody

/-- The default signature completes the sum of the characters to 127 (R236). -/
theorem flexSig_decided {p : Params} (hp : p.flexSignature = .decided) (m : List Byte) :
    ((flexSig p m).toNat + (m.map BitVec.toNat).sum) % 128 = 127 := by
  rw [flexSig, hp, Nat.add_comm]
  exact add_toNat_not_ofNat 7 (sumNat m)

theorem flexSig_substituted {p : Params} (hp : p.flexSignature = .substituted) (m : List Byte) :
    flexSig p m = Config.flexSigSubstitute m := by
  rw [flexSig, hp]

/-- The datawords with the checksum put in the header are the alphanumeric message of R233. -/
theorem flexAlphaDatawords_isAlphaMessage (p : Params) (m : List Byte) (h : Word) :
    IsFlexAlphaMessage p
      ((((h &&& 0x1FFC00#32) ||| (alphaK (flexAlphaDatawords p m h)).setWidth 32) :: flexAlphaBody p m).getD · 0)
      (flexAlphaCount m.length) m h (alphaK (flexAlphaDatawords p m h)) := by
  have hhigh : ∀ x ∈ flexAlphaDatawords p m h, x.extractLsb' 21 11 = 0 :=
    List.forall_mem_cons.mpr ⟨and_extractLsb'_of_zero (by decide) h, flexAlphaBody_high⟩
  have hhigh' := forall_or_setWidth_cons_high (alphaK (flexAlphaDatawords p m h)) (by decide) hhigh
  have hclear : (h &&& 0x1FFC00#32).setWidth 10 = 0 := setWidth_and_eq_zero (by decide) h
  have hsum := messageSum_add_alphaK (flexAlphaDatawords p m h)
  rw [flexAlphaDatawords, messageSum_cons flexAlphaBody_high, BitVec.and_assoc, BitVec.and_self,
    ← flexAlphaDatawords] at hsum
  generalize alphaK (flexAlphaDatawords p m h) = k at *
  refine ⟨fun j hj => forall_getD_of_forall_mem hhigh' j ?_, ?_, ?_, fun hp => ?_, fun hp => ?_, fun i hi => ?_, ?_⟩
  · rwa [List.length_cons, flexAlphaBody_length]
  · exact (extractLsb'_or_setWidth_of_le _ k 11 (le_refl 10)).trans (and_extractLsb'_of_allOnes (by decide) h)
  · exact (BitVec.setWidth_eq_extractLsb' (by decide)).symm.trans (setWidth_or_setWidth k (by decide) hclear)
  · beta_reduce
    rw [List.getD_cons_succ, flexAlphaBody_signature, flexSig_decided hp]
  · beta_reduce
    rw [List.getD_cons_succ, flexAlphaBody_signature, flexSig_substituted hp]
  · beta_reduce
    rw [Nat.add_comm 1, List.getD_cons_succ, flexAlphaBody_character hi]
  · rw [← flexAlphaBody_length (p := p), ← List.length_cons, sum_map_range_getD, List.map_cons, List.sum_cons,
      toNat_or_setWidth k (by decide) hclear, Nat.add_right_comm]
    exact hsum

/-- A message of at most 252 7-bit characters has its datawords and their checksum (R233). -/
theorem flexAlphaWords_eq (p : Params) {m : List Byte} (h : Word) (hlen : m.length ≤ 252)
    (hm : ∀ c ∈ m, c.toNat ≤ 0x7F) :
    ∃ w k, flexAlphaWords p m h = .ok (w, k) ∧ w.length = max 2 ((m.length + 4 + 2) / 3)
      ∧ IsFlexAlphaMessage p (w.getD · 0) w.length m h k := by
  refine ⟨_, _, flexAlphaWords_eq_datawords p h hlen hm, ?_, ?_⟩
  · rw [List.length_cons, flexAlphaBody_length]
    rfl
  · rw [List.length_cons, flexAlphaBody_length]
    exact flexAlphaDatawords_isAlphaMessage p m h

/-- The check of the number of characters (R233). -/
theorem flexAlphaWords_length_error (p : Params) {m : List Byte} (h : Word) (hlen : 252 < m.length) :
    flexAlphaWords p m h = .error (.inputValidation .length) := by
  rw [flexAlphaWords, decide_eq_false (Nat.not_le.mpr hlen), require_false, error_bind]

theorem flexAlphaWords_character_error (p : Params) {m : List Byte} (h : Word) (hlen : m.length ≤ 252)
    (hbad : ∃ c ∈ m, 0x7F < c.toNat) : flexAlphaWords p m h = .error (.inputValidation .character) := by
  obtain ⟨c, hc, hgt⟩ := hbad
  rw [flexAlphaWords, decide_eq_true hlen, require_true, ok_bind,
    (encodeChars_error_iff ..).mpr ⟨⟨c, hc, asciiMap_of_gt hgt⟩, rfl⟩, error_bind]

/-! ### FMSGN and FMSGA -/

/-- A message longer than a builder's limit, or empty, is reported whichever check finds it (R232, R235, R244). -/
theorem message_bind_length_error {α : Type} {s : State} {f : List Byte → Except CmdError α} {top : Nat}
    (hf : ∀ m : List Byte, top < m.length → f m = .error (.inputValidation .length))
    (h : s.msgLen.toNat = 0 ∨ top < s.msgLen.toNat) : s.message >>= f = .error (.inputValidation .length) := by
  by_cases hmessage : 1 ≤ s.msgLen.toNat ∧ s.msgLen.toNat ≤ 256
  · rw [message_eq hmessage.1 hmessage.2, ok_bind]
    exact hf _ (by rw [Memory.readList_length]; omega)
  · rw [message_eq_error (by omega), error_bind]

/-- The state after message words `ws` and a checksum are answered (R232, R235). -/
def State.afterMessageWords (s : State) (ws : List Word) (k : Word) (opc : Byte) : State :=
  (((s.setWords ws).setRes 0 (BitVec.ofNat 32 ws.length)).setRes 1 k).endOk opc

theorem afterMessageWords_eq (s : State) (ws : List Word) (k : Word) (opc : Byte) :
    s.afterMessageWords ws k opc = State.reportOk { s with
      wb := (s.afterMessageWords ws k opc).wb, wbLen := BitVec.ofNat 32 ws.length,
      res := (s.res.set 0 (BitVec.ofNat 32 ws.length)).set 1 k } opc := rfl

theorem read_afterMessageWords_of_le (s : State) (ws : List Word) (k : Word) (opc : Byte) {j : Nat}
    (h : ws.length ≤ j) : Memory.read (s.afterMessageWords ws k opc).wb j = Memory.read s.wb j :=
  read_writeList_of_le s.wb ws h

theorem read_afterMessageWords_of_lt (s : State) (ws : List Word) (k : Word) (opc : Byte) {j : Nat}
    (h : j < ws.length) : Memory.read (s.afterMessageWords ws k opc).wb j = ws.getD j 0 :=
  read_writeList_of_lt s.wb ws h

/-- A numeric message of at least one word is a matter of its words alone. -/
theorem IsFlexNumericMessage.congr {w v : Nat → Word} {n : Nat} {ks : List (BitVec 4)} {k : BitVec 6}
    (hn : 1 ≤ n) (hwv : ∀ j < n, w j = v j) (h : IsFlexNumericMessage v n ks k) : IsFlexNumericMessage w n ks k := by
  obtain ⟨hhigh, hlow, hbits, hsum⟩ := h
  have hrest : ((List.range (n - 1)).map fun j => (w (j + 1)).toNat)
      = (List.range (n - 1)).map fun j => (v (j + 1)).toNat :=
    List.map_congr_left fun j hj => by rw [hwv (j + 1) (by have := List.mem_range.mp hj; omega)]
  refine ⟨fun j hj => ?_, ?_, fun p hp => ?_, ?_⟩
  · rw [hwv j hj, hhigh j hj]
  · rw [hwv 0 hn, hlow]
  · rw [hwv _ (by omega), hbits p hp]
  · rw [hwv 0 hn, hrest, hsum]

/-- An alphanumeric message of at least two words is a matter of its words alone. -/
theorem IsFlexAlphaMessage.congr {p : Params} {w v : Nat → Word} {n : Nat} {m : List Byte} {h : Word}
    {k : BitVec 10} (hn : 2 ≤ n) (hwv : ∀ j < n, w j = v j) (hv : IsFlexAlphaMessage p v n m h k) :
    IsFlexAlphaMessage p w n m h k := by
  obtain ⟨hhigh, hheader, hlow, hdecided, hsubstituted, hchars, hsum⟩ := hv
  have hall : ((List.range n).map fun j => (w j).toNat) = (List.range n).map fun j => (v j).toNat :=
    List.map_congr_left fun j hj => by rw [hwv j (List.mem_range.mp hj)]
  rw [IsFlexAlphaMessage, hwv 0 (by omega), hwv 1 hn, hall]
  refine ⟨fun j hj => ?_, hheader, hlow, hdecided, hsubstituted, fun i hi => ?_, hsum⟩
  · rw [hwv j hj, hhigh j hj]
  · rw [hwv _ (by omega), hchars i hi]

theorem exec_fmsgn (s : State) : exec .fmsgn s = .next (s.endCommand 0x56 (fmsgnEffect s)) := rfl

theorem exec_fmsga (s : State) : exec .fmsga s = .next (s.endCommand 0x57 (fmsgaEffect s)) := rfl

/-- Settles O50: the message is mapped, so its datawords exist and go to WB with their checksum. -/
theorem fmsgnPacksNumericDatawords : Obligations.FmsgnPacksNumericDatawords := by
  rintro s m n rfl hn
  refine ⟨fun h1 h41 ks hks => ?_, fun hlen => ?_, fun h1 h41 hbad => ?_⟩
  · obtain ⟨w, k, hw, hcount, hmessage⟩ := flexNumWords_eq (by rwa [Memory.readList_length]) hks
    rw [Memory.readList_length] at hcount
    obtain rfl : w.length = n := hcount.trans hn.symm
    refine ⟨s.afterMessageWords w (k.setWidth 32) 0x56, k, ?_, afterMessageWords_eq .., fun j hj => ?_, ?_⟩
    · rw [exec_fmsgn, fmsgnEffect, message_eq h1 (by omega), ok_bind, hw]
      rfl
    · exact read_afterMessageWords_of_le _ _ _ _ hj
    · exact hmessage.congr (by omega) fun j hj => read_afterMessageWords_of_lt _ _ _ _ hj
  · rw [exec_fmsgn, fmsgnEffect, message_bind_length_error _ hlen]
    · rfl
    · intro m hm
      rw [flexNumWords_length_error hm, error_bind]
  · rw [exec_fmsgn, fmsgnEffect, message_eq h1 (by omega), ok_bind,
      flexNumWords_character_error (by rwa [Memory.readList_length]) hbad]
    rfl

/-- Settles O51: 7-bit characters have their datawords, and only 252 characters need more than 85. -/
theorem fmsgaPacksAlphaDatawords : Obligations.FmsgaPacksAlphaDatawords := by
  rintro s m n rfl hn
  refine ⟨fun h1 h251 hall => ?_, fun hlen => ?_, fun h1 h252 hbad => ?_, fun h252 hall => ?_⟩
  · obtain ⟨w, k, hw, hcount, hmessage⟩ :=
      flexAlphaWords_eq s.params s.op[0] (by rw [Memory.readList_length]; omega) hall
    rw [Memory.readList_length] at hcount
    obtain rfl : w.length = n := hcount.trans hn.symm
    have hroom : w.length ≤ 85 := by omega
    refine ⟨s.afterMessageWords w (k.setWidth 32) 0x57, k, ?_, afterMessageWords_eq .., fun j hj => ?_, ?_⟩
    · rw [exec_fmsga, fmsgaEffect, message_eq h1 (by omega), ok_bind, hw, ok_bind, decide_eq_true hroom, require_true]
      rfl
    · exact read_afterMessageWords_of_le _ _ _ _ hj
    · exact hmessage.congr (by omega) fun j hj => read_afterMessageWords_of_lt _ _ _ _ hj
  · rw [exec_fmsga, fmsgaEffect, message_bind_length_error _ hlen]
    · rfl
    · intro m hm
      rw [flexAlphaWords_length_error s.params s.op[0] hm, error_bind]
  · rw [exec_fmsga, fmsgaEffect, message_eq h1 (by omega), ok_bind,
      flexAlphaWords_character_error s.params s.op[0] (by rwa [Memory.readList_length]) hbad]
    rfl
  · obtain ⟨w, k, hw, hcount, -⟩ :=
      flexAlphaWords_eq s.params s.op[0] (by rw [Memory.readList_length]; omega) hall
    rw [Memory.readList_length, h252] at hcount
    have hfull : ¬ w.length ≤ 85 := by omega
    rw [exec_fmsga, fmsgaEffect, message_eq (by omega) (by omega), ok_bind, hw, ok_bind, decide_eq_false hfull,
      require_false]
    rfl

end Sys2Proof.Machine
end

section
/-! PROOF. The FLEX frame (44_flex.md R239 to R244): which word and which bit stands where in it, and the commands
TXFLXN and TXFLXA that queue it or raise the first failing check. -/

namespace Sys2Proof.Machine

/-! ### The words of a frame -/

/-- The idle datawords (R240). -/
def flexIdleDatawords (n : Nat) : List Word :=
  (List.range n).map fun i => if i % 2 = 0 then 0x000000#32 else 0x1FFFFF#32

theorem flexIdle_eq_map_fcw (n : Nat) : flexIdle n = (flexIdleDatawords n).map fcw := by
  rw [flexIdle, flexIdleDatawords, List.map_map]
  exact List.map_congr_left fun i _ => (apply_ite fcw ..).symm

/-- The datawords of a frame with `n` idle words (R239, R240). -/
def flexDatawords (caps w : List Word) (biw vec : Word) (n : Nat) : List Word :=
  biw :: (caps ++ (List.replicate caps.length vec ++ (w ++ flexIdleDatawords n)))

theorem flexDatawords_length (caps w : List Word) (biw vec : Word) (n : Nat) :
    (flexDatawords caps w biw vec n).length = 1 + 2 * caps.length + w.length + n := by
  simp [flexDatawords, flexIdleDatawords]
  omega

/-- The datawords stand where R239 says. -/
theorem flexDatawords_getD (caps w : List Word) (biw vec : Word) {n j : Nat}
    (hj : j < 1 + 2 * caps.length + w.length + n) :
    (flexDatawords caps w biw vec n).getD j 0 = flexFrameDataword caps w biw vec j := by
  cases j with
  | zero => rfl
  | succ j =>
    rw [flexDatawords, flexFrameDataword, if_neg (Nat.succ_ne_zero j), List.getD_cons_succ, Nat.add_sub_cancel]
    by_cases hcap : j < caps.length
    · rw [if_pos (by omega), List.getD_append _ _ _ _ hcap]
    rw [if_neg (by omega), List.getD_append_right _ _ _ _ (by omega)]
    by_cases hvec : j < 2 * caps.length
    · rw [if_pos (by omega), List.getD_append _ _ _ _ (by rw [List.length_replicate]; omega),
        List.getD_replicate _ (by omega)]
    rw [if_neg (by omega), List.getD_append_right _ _ _ _ (by rw [List.length_replicate]; omega),
      List.length_replicate, show j - caps.length - caps.length = j + 1 - 2 * caps.length - 1 by omega]
    by_cases hword : j < 2 * caps.length + w.length
    · rw [if_pos (by omega), List.getD_append _ _ _ _ (by omega)]
    rw [if_neg (by omega), List.getD_append_right _ _ _ _ (by omega),
      List.getD_eq_getElem _ _ (by simp [flexIdleDatawords]; omega)]
    simp only [flexIdleDatawords, List.getElem_map, List.getElem_range]
    rw [show j + 1 - 2 * caps.length - 1 - w.length = j + 1 - (2 * caps.length + w.length + 1) by omega]

/-- The frame of words that fit it, under control words that pass their checks: the 88 codewords of its datawords
(R239, R240). -/
theorem flexWords_eq {caps w : List Word} {p biw v : Word} {vec : Nat → Nat → Except CmdError Word}
    (hfit : 1 + 2 * caps.length + w.length ≤ 88) (hbiw : biwDw p (caps.length + 1) = .ok biw)
    (hvec : vec (2 * caps.length + 1) w.length = .ok v) :
    flexWords caps w p vec
      = .ok ((flexDatawords caps w biw v (88 - (1 + 2 * caps.length + w.length))).map fcw) := by
  refine (flexWords_ok_iff ..).mpr ⟨hfit, biw, v, hbiw, hvec, ?_⟩
  have hlen : ([fcw biw] ++ caps.map fcw ++ List.replicate caps.length (fcw v) ++ w.map fcw).length
      = 1 + 2 * caps.length + w.length := by
    simp
    omega
  rw [hlen, flexIdle_eq_map_fcw, flexDatawords]
  simp

theorem flexWords_capacity_error {caps w : List Word} {p : Word} {vec : Nat → Nat → Except CmdError Word}
    (h : 88 < 1 + 2 * caps.length + w.length) : flexWords caps w p vec = .error (.inputValidation .frameCapacity) := by
  rw [flexWords]
  simp only [decide_eq_false (Nat.not_le.mpr h), require_false, error_bind]

/-! ### The bits of a frame -/

section Bits

variable {p : Params} {t : List Word} {f : Word}

/-- Bit `i` of the interleaved blocks (R237, R241). -/
theorem flexBlocks_getElem? (ht : t.length = 88) {i : Nat} (hi : i < 2816) :
    ((List.range 11).flatMap fun k => interleave (chunk 8 k t))[i]?
      = some ((t.getD (8 * (i / 256) + i % 8) 0).getLsbD (31 - i % 256 / 8)) := by
  have hchunk : ∀ k < 11, (chunk 8 k t).length = 8 := fun k hk => chunk_length 8 k t (by omega)
  have hblock : ∀ k ∈ List.range 11, (interleave (chunk 8 k t)).length = 256 := fun k hk => by
    rw [interleave_length, hchunk k (List.mem_range.mp hk)]
  have hk : i / 256 < 11 := by omega
  have hlen := hchunk _ hk
  have hcolumn := interleave_getElem? (ws := chunk 8 (i / 256) t) (i := i % 256 / 8) (j := i % 8) (by omega) (by omega)
  have hplace : (chunk 8 (i / 256) t).length * (i % 256 / 8) + i % 8 = i % 256 := by
    rw [hlen]
    omega
  have hword : (chunk 8 (i / 256) t)[i % 8]'(by omega) = t.getD (8 * (i / 256) + i % 8) 0 := by
    rw [← Option.some_inj, ← List.getElem?_eq_getElem, chunk_getElem? 8 _ t _ (by omega),
      List.getD_eq_getElem _ _ (by omega), List.getElem?_eq_getElem]
  have h := flatMap_getElem? (fun k => interleave (chunk 8 k t)) (Nat.mod_lt i (by decide)) _ hblock (k := i / 256)
    (by simpa using hk)
  rw [Nat.div_add_mod, List.getElem_range] at h
  rw [h, ← hword, ← hcolumn, hplace]

/-- Every bit of the frame is that of R237 and R241. -/
theorem flexBits_isFlexTransmission (ht : t.length = 88) :
    IsFlexTransmission (flexBits p t f) p (fcw (fxcsum f)) (t.getD · 0) := by
  refine ⟨flexBits_length p t f ht, ?_, fun i hi => ?_, ?_, fun i hi => ?_⟩
  · rw [flexBits, List.append_assoc, List.append_assoc, List.take_left]
  · rw [flexBits, List.append_assoc, List.append_assoc, List.getElem?_append_right (by omega), Nat.add_sub_cancel_left,
      List.getElem?_append_left (by simpa using hi), bitsMsb_getElem? _ hi]
  · rw [flexBits, List.append_assoc, List.drop_left' (by simp), List.take_left]
  · rw [flexBits, List.getElem?_append_right (by simp; omega)]
    simp only [List.length_append, bitsMsb_length, Nat.add_sub_cancel_left]
    exact flexBlocks_getElem? ht hi

end Bits

/-! ### The checks of the frame commands -/

/-- The capcodes a frame is addressed to (R242). -/
def State.flexCapcodes (s : State) : List Word := s.cap.toList.take s.capCount.toNat

theorem flexCapcodes_length_le (s : State) : s.flexCapcodes.length ≤ 8 := by
  rw [State.flexCapcodes, List.length_take, Vector.length_toList]
  exact Nat.min_le_right _ _

theorem capcodes_eq {s : State} (h1 : 1 ≤ s.capCount.toNat) (h8 : s.capCount.toNat ≤ 8) :
    s.capcodes = .ok s.flexCapcodes :=
  (capcodes_ok_iff s _).mpr ⟨⟨h1, h8⟩, rfl⟩

theorem capcodes_eq_error {s : State} (h : s.capCount.toNat = 0 ∨ 8 < s.capCount.toNat) :
    s.capcodes = .error (.inputValidation .capCount) := by
  have hcount : ¬ (1 ≤ s.capCount.toNat ∧ s.capCount.toNat ≤ Config.capMax) := by
    rw [Config.capMax]
    omega
  simp only [State.capcodes, decide_eq_false hcount, require_false, error_bind]

/-- A capcode that is no short address aborts the frame, wherever it stands (R242). -/
theorem checkShortAddrs_eq_error {as : List Word} (h : ∃ a ∈ as, a.toNat < 32769 ∨ 1966080 < a.toNat) :
    checkShortAddrs as = .error (.inputValidation .capcodeRange) := by
  induction as with
  | nil => simp at h
  | cons a as ih =>
    rw [checkShortAddrs]
    by_cases ha : a.toNat < 32769 ∨ 1966080 < a.toNat
    · rw [flexSaddr_eq_error ha, error_bind]
    · rw [flexSaddr_eq (by omega) (by omega), ok_bind]
      obtain ⟨b, hb, hrange⟩ := h
      rcases List.mem_cons.mp hb with rfl | hb
      · exact absurd hrange ha
      · exact ih ⟨b, hb, hrange⟩

/-- The effect of a FLEX frame command with the message builder `build` and the vector `vec` of its checksum (R242,
R243). -/
def flexFrameEffect {κ : Type} (build : List Byte → Except CmdError (List Word × κ))
    (vec : κ → Nat → Nat → Except CmdError Word) (s : State) : Except CmdError State := do
  s.requireConfigured
  let caps ← s.capcodes
  checkShortAddrs caps
  let m ← s.message
  let r ← build m
  let t ← flexWords caps r.1 s.op[1] (vec r.2)
  s.queueFrame (flexBits s.params t s.op[0])

theorem exec_txflxn (s : State) : exec .txflxn s = .next (s.endCommand (opcode .txflxn)
    (flexFrameEffect flexNumWords (fun k b w => vecnDw b w k.toNat) s)) := rfl

theorem exec_txflxa (s : State) : exec .txflxa s = .next (s.endCommand (opcode .txflxa)
    (flexFrameEffect (fun m => flexAlphaWords s.params m s.op[2]) (fun _ => vecaDw) s)) := rfl

/-- What the first three checks of R244 let pass. -/
structure State.FlexReady (s : State) : Prop where
  configured : s.cfgOk = true
  someCapcode : 1 ≤ s.capCount.toNat
  capcodesFit : s.capCount.toNat ≤ 8
  shortAddresses : ∀ a ∈ s.flexCapcodes, 32769 ≤ a.toNat ∧ a.toNat ≤ 1966080

/-- The bits of a frame in a build with parameters `p` (R241). -/
def flexFrameLength (p : Params) : Nat := p.flexSync1.length + 32 + p.flexSync2.length + 2816

section FrameCommands

variable {κ : Type} {build : List Byte → Except CmdError (List Word × κ)}
  {vec : κ → Nat → Nat → Except CmdError Word} {s : State}

theorem flexFrame_notConfigured_error (hc : s.cfgOk = false) (opc : Byte) :
    s.endCommand opc (flexFrameEffect build vec s) = s.reportError 3 1 opc := by
  rw [flexFrameEffect, requireConfigured_eq_error hc]
  rfl

theorem flexFrame_capCount_error (hc : s.cfgOk = true) (hn : s.capCount.toNat = 0 ∨ 8 < s.capCount.toNat)
    (opc : Byte) : s.endCommand opc (flexFrameEffect build vec s) = s.reportError 1 5 opc := by
  rw [flexFrameEffect, requireConfigured_eq hc, ok_bind, capcodes_eq_error hn]
  rfl

theorem flexFrame_capcodeRange_error (hc : s.cfgOk = true) (h1 : 1 ≤ s.capCount.toNat) (h8 : s.capCount.toNat ≤ 8)
    (hbad : ∃ a ∈ s.flexCapcodes, a.toNat < 32769 ∨ 1966080 < a.toNat) (opc : Byte) :
    s.endCommand opc (flexFrameEffect build vec s) = s.reportError 1 1 opc := by
  rw [flexFrameEffect, requireConfigured_eq hc, ok_bind, capcodes_eq h1 h8, ok_bind, checkShortAddrs_eq_error hbad]
  rfl

/-- Past the first three checks a frame command builds its words and queues their frame (R242, R243). -/
theorem State.FlexReady.effect_eq (h : s.FlexReady) :
    flexFrameEffect build vec s = s.message >>= fun m => build m >>= fun r =>
      flexWords s.flexCapcodes r.1 s.op[1] (vec r.2) >>= fun t => s.queueFrame (flexBits s.params t s.op[0]) := by
  rw [flexFrameEffect, requireConfigured_eq h.configured, ok_bind, capcodes_eq h.someCapcode h.capcodesFit, ok_bind,
    (checkShortAddrs_ok_iff _ ()).mpr h.shortAddresses, ok_bind]

theorem flexFrame_length_error (h : s.FlexReady) {top : Nat}
    (hbuild : ∀ m : List Byte, top < m.length → build m = .error (.inputValidation .length))
    (hlen : s.msgLen.toNat = 0 ∨ top < s.msgLen.toNat) (opc : Byte) :
    s.endCommand opc (flexFrameEffect build vec s) = s.reportError 1 2 opc := by
  rw [h.effect_eq, message_bind_length_error _ hlen]
  · rfl
  · intro m hm
    rw [hbuild m hm, error_bind]

section Message

variable {r : List Word × κ} (h : s.FlexReady) (h1 : 1 ≤ s.msgLen.toNat) (h256 : s.msgLen.toNat ≤ 256)

include h h1 h256

theorem flexFrame_character_error
    (hbuild : build (Memory.readList s.msg s.msgLen.toNat) = .error (.inputValidation .character)) (opc : Byte) :
    s.endCommand opc (flexFrameEffect build vec s) = s.reportError 1 3 opc := by
  rw [h.effect_eq, message_eq h1 h256, ok_bind, hbuild]
  rfl

theorem flexFrame_capacity_error (hbuild : build (Memory.readList s.msg s.msgLen.toNat) = .ok r)
    (hfull : 88 < 1 + 2 * s.flexCapcodes.length + r.1.length) (opc : Byte) :
    s.endCommand opc (flexFrameEffect build vec s) = s.reportError 1 6 opc := by
  rw [h.effect_eq, message_eq h1 h256, ok_bind, hbuild, ok_bind, flexWords_capacity_error hfull]
  rfl

/-- A message whose words fit the frame is queued in it, if the FIFO has room (R239 to R243). -/
theorem flexFrame_effect_of_fits (hbuild : build (Memory.readList s.msg s.msgLen.toNat) = .ok r)
    (hfit : 1 + 2 * s.flexCapcodes.length + r.1.length ≤ 88) {v : Word}
    (hvec : vec r.2 (2 * s.flexCapcodes.length + 1) r.1.length = .ok v) :
    ∃ x fiw biw word, flexFrameEffect build vec s = s.queueFrame x ∧ x.length = flexFrameLength s.params
      ∧ IsFlexTransmission x s.params fiw word ∧ CarriesDataword fiw (fxcsum s.op[0])
      ∧ (∀ j < 88, CarriesDataword (word j) (flexFrameDataword s.flexCapcodes r.1 biw v j))
      ∧ IsBlockInfoWord biw s.op[1] (s.flexCapcodes.length + 1) := by
  have hcaps := flexCapcodes_length_le s
  obtain ⟨biw, hbiw, hinfo⟩ := biwDw_eq s.op[1] (v := s.flexCapcodes.length + 1) (by omega)
  have hwords := flexWords_eq hfit hbiw hvec
  have hlen := flexWords_length _ _ _ _ _ hwords
  have hframe := flexBits_isFlexTransmission (p := s.params) (f := s.op[0]) hlen
  refine ⟨_, _, biw, _, ?_, hframe.1, hframe, fcw_carriesDataword _, fun j hj => ?_, hinfo⟩
  · rw [h.effect_eq, message_eq h1 h256, ok_bind, hbuild, ok_bind, hwords, ok_bind]
  · rw [List.getD_eq_getElem _ _ (by omega), List.getElem_map, ← List.getD_eq_getElem _ 0 _,
      flexDatawords_getD _ _ _ _ (by omega)]
    exact fcw_carriesDataword _

end Message

end FrameCommands

/-! ### TXFLXN and TXFLXA -/

/-- A queued frame with room for it (R242, R243). -/
theorem endCommand_queueFrame_of_le {s : State} {x : List Bool}
    (h : s.fifo.length + x.length * s.repeatCount.toNat ≤ s.params.fifoCap) (opc : Byte) :
    s.endCommand opc (s.queueFrame x) = State.reportOk { s with
      fifo := s.fifo ++ repeatBits s.repeatCount.toNat x,
      res := (s.res.set 1 (countWord (x.length * s.repeatCount.toNat))).set 0 (countWord x.length) } opc := by
  rw [(queueFrame_ok_iff ..).mpr ⟨h, rfl⟩]
  rfl

theorem endCommand_queueFrame_of_lt {s : State} {x : List Bool}
    (h : s.params.fifoCap < s.fifo.length + x.length * s.repeatCount.toNat) (opc : Byte) :
    s.endCommand opc (s.queueFrame x) = s.reportError 6 0 opc := by
  rw [(queueFrame_error_iff ..).mpr ⟨h, rfl⟩]
  rfl

/-- Settles O53: the mapped message has its numeric words, and their frame is queued. -/
theorem txflxnQueuesNumericFrame : Obligations.TxflxnQueuesNumericFrame := by
  rintro s m caps ks n len rfl rfl hn rfl hc h1 h8 hshort hm1 hm41 hks hroom
  have hcaps := flexCapcodes_length_le s
  obtain ⟨w, k, hw, hcount, hmessage⟩ := flexNumWords_eq (by rwa [Memory.readList_length]) hks
  rw [Memory.readList_length] at hcount
  obtain rfl : w.length = n := hcount.trans hn.symm
  obtain ⟨vec, hvec, hvector⟩ := vecnDw_eq (b := 2 * s.flexCapcodes.length + 1) (w := w.length) (by omega) (by omega)
    (by omega) k
  obtain ⟨x, fiw, biw, word, heffect, hlen, hframe, hfiw, hwords, hinfo⟩ :=
    flexFrame_effect_of_fits (vec := fun k b w => vecnDw b w k.toNat) ⟨hc, h1, h8, hshort⟩ hm1 (by omega) hw
      (by dsimp only; omega) hvec
  refine ⟨x, fxcsum s.op[0], fiw, biw, vec, w, k, word, ?_, hframe, hfiw, fxcsum_hasFlexWordChecksum _,
    fxcsum_extractLsb' _ (by decide) (by decide), hwords, hinfo, hvector, rfl, hmessage⟩
  rw [flexFrameLength] at hlen
  rw [exec_txflxn, heffect, ← hlen, endCommand_queueFrame_of_le (by rwa [hlen])]
  rfl

/-- Settles O54: 7-bit characters have their alphanumeric words, and their frame is queued. -/
theorem txflxaQueuesAlphaFrame : Obligations.TxflxaQueuesAlphaFrame := by
  rintro s m caps n len rfl rfl hn rfl hc h1 h8 hshort hm1 hm252 hall hfit hroom
  have hcaps := flexCapcodes_length_le s
  obtain ⟨w, k, hw, hcount, hmessage⟩ := flexAlphaWords_eq s.params s.op[2] (by rwa [Memory.readList_length]) hall
  rw [Memory.readList_length] at hcount
  obtain rfl : w.length = n := hcount.trans hn.symm
  obtain ⟨vec, hvec, hvector⟩ := vecaDw_eq (b := 2 * s.flexCapcodes.length + 1) (w := w.length) (by omega) (by omega)
    (by omega)
  obtain ⟨x, fiw, biw, word, heffect, hlen, hframe, hfiw, hwords, hinfo⟩ :=
    flexFrame_effect_of_fits (build := fun m => flexAlphaWords s.params m s.op[2]) (vec := fun _ => vecaDw)
      ⟨hc, h1, h8, hshort⟩ hm1 (by omega) hw hfit hvec
  refine ⟨x, fxcsum s.op[0], fiw, biw, vec, w, k, word, ?_, hframe, hfiw, fxcsum_hasFlexWordChecksum _,
    fxcsum_extractLsb' _ (by decide) (by decide), hwords, hinfo, hvector, rfl, hmessage⟩
  rw [flexFrameLength] at hlen
  rw [exec_txflxa, heffect, ← hlen, endCommand_queueFrame_of_le (by rwa [hlen])]
  rfl

/-- Both commands are the frame effect with a builder that refuses a message too long or with a bad character, makes a
fixed number of words of any other, and a vector that takes any such number (R227 to R233, R242, R243). -/
theorem flexCommand_cases {i : Instr} (hi : i = .txflxn ∨ i = .txflxa) (s : State) :
    ∃ (κ : Type) (build : List Byte → Except CmdError (List Word × κ)) (vec : κ → Nat → Nat → Except CmdError Word),
      exec i s = .next (s.endCommand (opcode i) (flexFrameEffect build vec s))
      ∧ (∀ m : List Byte, (if i = .txflxn then 41 else 252) < m.length →
          build m = .error (.inputValidation .length))
      ∧ (∀ m : List Byte, m.length ≤ (if i = .txflxn then 41 else 252) →
          (∃ c ∈ m, if i = .txflxn then numMap c = none else 0x7F < c.toNat) →
          build m = .error (.inputValidation .character))
      ∧ ∀ m : List Byte, m.length ≤ (if i = .txflxn then 41 else 252) →
          (∀ c ∈ m, if i = .txflxn then numMap c ≠ none else c.toNat ≤ 0x7F) → ∃ r, build m = .ok r
          ∧ r.1.length = (if i = .txflxn then (2 + 4 * m.length + 20) / 21 else max 2 ((m.length + 4 + 2) / 3))
          ∧ ∀ b ≤ 127, ∃ v, vec r.2 b r.1.length = .ok v := by
  rcases hi with rfl | rfl
  · refine ⟨_, _, _, exec_txflxn s, fun m => flexNumWords_length_error, fun m => flexNumWords_character_error,
      fun m hm hmapped => ?_⟩
    obtain ⟨ks, hks⟩ := exists_map_eq_map_some hmapped
    obtain ⟨w, k, hw, hlen, -⟩ := flexNumWords_eq hm hks
    rw [if_pos rfl] at hm
    refine ⟨(w, k), hw, hlen, fun b hb => ?_⟩
    obtain ⟨v, hv, -⟩ := vecnDw_eq (w := w.length) hb (by omega) (by omega) k
    exact ⟨v, hv⟩
  · refine ⟨_, _, _, exec_txflxa s, fun m => flexAlphaWords_length_error _ _,
      fun m => flexAlphaWords_character_error _ _, fun m hm hall => ?_⟩
    obtain ⟨w, k, hw, hlen, -⟩ := flexAlphaWords_eq s.params s.op[2] hm hall
    rw [if_neg (by decide)] at hm
    refine ⟨(w, k), hw, hlen, fun b hb => ?_⟩
    obtain ⟨v, hv, -⟩ := vecaDw_eq (w := w.length) hb (by omega) (by omega)
    exact ⟨v, hv⟩

/-- Settles O55: one lemma for each check of the frame effect, the message's checks by the builder of the command. -/
theorem flexChecksComeInOrder : Obligations.FlexChecksComeInOrder := by
  rintro i s m caps top n len hi rfl rfl htop hn rfl
  obtain ⟨κ, build, vec, hexec, hlong, hbad, hgood⟩ := flexCommand_cases hi s
  rw [← htop] at hlong hbad hgood
  have htop256 : top ≤ 256 := by
    rw [htop]
    split <;> decide
  rw [hexec]
  refine ⟨fun hc => ?_, fun hc hn => ?_, fun hc h1 h8 => ⟨fun hrange => ?_, fun hshort => ?_⟩⟩
  · rw [flexFrame_notConfigured_error hc]
  · rw [flexFrame_capCount_error hc hn]
  · rw [flexFrame_capcodeRange_error hc h1 h8 hrange]
  have hready : s.FlexReady := ⟨hc, h1, h8, hshort⟩
  have hcaps := flexCapcodes_length_le s
  refine ⟨fun hlen => ?_, fun hm1 hmtop => ⟨fun hchar => ?_, fun hchar => ?_⟩⟩
  · rw [flexFrame_length_error hready hlong hlen]
  · rw [flexFrame_character_error hready hm1 (by omega) (hbad _ (by rwa [Memory.readList_length]) hchar)]
  obtain ⟨r, hr, hcount, hvec⟩ := hgood _ (by rwa [Memory.readList_length]) hchar
  rw [Memory.readList_length] at hcount
  obtain rfl : r.1.length = n := hcount.trans hn.symm
  refine ⟨fun hover => ?_, fun hfit hfull => ?_⟩
  · rw [flexFrame_capacity_error hready hm1 (by omega) hr hover]
  · obtain ⟨v, hv⟩ := hvec (2 * s.flexCapcodes.length + 1) (by omega)
    obtain ⟨x, _, _, _, heffect, hlen, -⟩ := flexFrame_effect_of_fits hready hm1 (by omega) hr hfit hv
    rw [flexFrameLength] at hlen
    rw [heffect, endCommand_queueFrame_of_lt (by rwa [hlen])]

end Sys2Proof.Machine
end

section
/-! PROOF. The GSC pager ID, address words and data blocks (45_gsc.md R271 to R277): the words a capcode decomposes
into as numbers, the two checks of the decomposition, and which unit each codeword of a block carries. -/

namespace Sys2Proof.Machine

/-! ### The pager ID -/

@[simp] theorem decimalDigit_val (c k : Nat) : (decimalDigit c k).val = c / 10 ^ k % 10 := rfl

/-- The digits `(a2, a1, a0)` of a capcode (R271). -/
def gscTriple (c : Nat) : Triple := (decimalDigit c 2, decimalDigit c 1, decimalDigit c 0)

/-- word1, the number of the digits `g1 g0` (R271). -/
def gscWord1 (c : Nat) : Nat := c / 1000 % 100

/-- word2, the table's entry for the last three digits (R271). -/
def gscWord2 (p : Params) (c : Nat) : Nat := (p.gscWord2.toList.getD (c % 1000) 0).val

/-- The preamble index, the last digit of `g2 + g0` (R271). -/
def gscPreambleIndex (c : Nat) : Fin 10 := ⟨(c / 100000 + c / 1000 % 10) % 10, Nat.mod_lt _ (by decide)⟩

/-- The triples that are illegal beside the word1 of a capcode (R272). -/
def gscIllegalTriples (p : Params) (c : Nat) : List Triple := if gscWord1 c < 50 then p.gscIllLo else p.gscIllHi

theorem gscWord1_eq_digits (c : Nat) : 10 * (decimalDigit c 4).val + (decimalDigit c 3).val = gscWord1 c := by
  simp only [decimalDigit_val, gscWord1]
  omega

theorem gscWord2Of_gscTriple (p : Params) (c : Nat) : gscWord2Of p (gscTriple c) = gscWord2 p c := by
  have hplace : 100 * (gscTriple c).1.val + 10 * (gscTriple c).2.1.val + (gscTriple c).2.2.val = c % 1000 := by
    simp only [gscTriple, decimalDigit_val]
    omega
  have hlt : c % 1000 < p.gscWord2.toList.length := by
    rw [Vector.length_toList]
    exact Nat.mod_lt _ (by decide)
  rw [gscWord2, List.getD_eq_getElem _ _ hlt, Vector.getElem_toList]
  simp only [gscWord2Of, hplace]

theorem gscIllegal_iff (p : Params) (c : Nat) :
    gscIllegal p (gscWord1 c) (gscTriple c) = true ↔ gscTriple c ∈ gscIllegalTriples p c := by
  rw [gscIllegal, gscIllegalTriples]
  split <;> exact List.contains_iff_mem

section PagerId

variable {p : Params} {cap : Word}

/-- The pager ID of a capcode that passes both checks (R271, R272). -/
theorem gscPagerid_eq (hcap : cap.toNat ≤ 999999) (hlegal : gscTriple cap.toNat ∉ gscIllegalTriples p cap.toNat) :
    gscPagerid p cap = .ok (gscWord1 cap.toNat, gscWord2 p cap.toNat, gscPreambleIndex cap.toNat) := by
  have hok : gscIllegal p (gscWord1 cap.toNat) (gscTriple cap.toNat) = false :=
    Bool.eq_false_iff.mpr (mt (gscIllegal_iff p _).mp hlegal)
  refine (gscPagerid_ok_iff ..).mpr ⟨hcap, ?_, ?_⟩
  · rw [gscWord1_eq_digits]
    exact hok
  · rw [gscWord1_eq_digits, ← gscWord2Of_gscTriple]
    rfl

/-- The check of the capcode's range (R271). -/
theorem gscPagerid_capcodeRange_error (hcap : 999999 < cap.toNat) :
    gscPagerid p cap = .error (.inputValidation .capcodeRange) := by
  simp only [gscPagerid, decide_eq_false (Nat.not_le.mpr hcap), require_false, error_bind]

/-- The check of the triple (R272). -/
theorem gscPagerid_illegalCodeword_error (hcap : cap.toNat ≤ 999999)
    (hillegal : gscTriple cap.toNat ∈ gscIllegalTriples p cap.toNat) :
    gscPagerid p cap = .error (.inputValidation .illegalCodeword) := by
  have hbad : gscIllegal p (gscWord1 cap.toNat)
      (decimalDigit cap.toNat 2, decimalDigit cap.toNat 1, decimalDigit cap.toNat 0) = true :=
    (gscIllegal_iff p _).mpr hillegal
  simp only [gscPagerid, decide_eq_true hcap, require_true, ok_bind, gscWord1_eq_digits, hbad, Bool.not_true,
    require_false, error_bind]

end PagerId

theorem exec_gpid (s : State) : exec .gpid s = .next (s.endCommand 0x60 (gpidEffect s)) := rfl

/-- Settles O56: the pager ID of the capcode in OP[0], after its two checks. -/
theorem gpidDecomposesCapcode : Obligations.GpidDecomposesCapcode := by
  rintro s _ _ _ rfl rfl rfl
  rw [exec_gpid, gpidEffect]
  refine ⟨fun hcap hlegal => ?_, fun hcap => ?_, fun hcap hillegal => ?_⟩
  · rw [gscPagerid_eq hcap hlegal]
    rfl
  · rw [gscPagerid_capcodeRange_error hcap]
    rfl
  · rw [gscPagerid_illegalCodeword_error hcap hillegal]
    rfl

/-! ### The address words -/

/-- The codeword of an entry of GSC_WORD, complemented on a condition (R274). -/
theorem gscAddressWord_eq (p : Params) (w : Nat) (q : Prop) [Decidable q] :
    gscAddressWord p w (decide q)
      = if q then golay p.golayPoly (p.gscWord.toList.getD (w % 50) 0) ^^^ 0x7FFFFF#23
        else golay p.golayPoly (p.gscWord.toList.getD (w % 50) 0) := by
  have hlt : w % 50 < p.gscWord.toList.length := by
    rw [Vector.length_toList]
    exact Nat.mod_lt _ (by decide)
  rw [List.getD_eq_getElem _ _ hlt, Vector.getElem_toList]
  simp only [gscAddressWord, golayComplement, decide_eq_true_eq]

/-- The first address word of a capcode (R274). -/
def gscAddress1 (p : Params) (c : Nat) : BitVec 23 := gscAddressWord p (gscWord1 c) (decide (50 ≤ gscWord1 c))

/-- The second address word of a capcode (R274). -/
def gscAddress2 (p : Params) (c : Nat) : BitVec 23 := gscAddressWord p (gscWord2 p c) (decide (gscWord2 p c < 50))

section Address

variable {p : Params} {cap : Word}

theorem gscAddr_eq (hcap : cap.toNat ≤ 999999) (hlegal : gscTriple cap.toNat ∉ gscIllegalTriples p cap.toNat) :
    gscAddr p cap
      = .ok (gscAddress1 p cap.toNat, gscAddress2 p cap.toNat, gscPreambleIndex cap.toNat) :=
  (gscAddr_ok_iff ..).mpr ⟨_, gscPagerid_eq hcap hlegal, rfl⟩

theorem gscAddr_capcodeRange_error (hcap : 999999 < cap.toNat) :
    gscAddr p cap = .error (.inputValidation .capcodeRange) := by
  rw [gscAddr, gscPagerid_capcodeRange_error hcap, error_bind]

theorem gscAddr_illegalCodeword_error (hcap : cap.toNat ≤ 999999)
    (hillegal : gscTriple cap.toNat ∈ gscIllegalTriples p cap.toNat) :
    gscAddr p cap = .error (.inputValidation .illegalCodeword) := by
  rw [gscAddr, gscPagerid_illegalCodeword_error hcap hillegal, error_bind]

end Address

theorem exec_gaddr (s : State) : exec .gaddr s = .next (s.endCommand 0x61 (gaddrEffect s)) := rfl

/-- Settles O57: the address words of the capcode in OP[0], after the checks of its pager ID. -/
theorem gaddrFormsAddressWords : Obligations.GaddrFormsAddressWords := by
  rintro s _ _ _ _ _ _ _ rfl rfl rfl rfl rfl rfl rfl
  rw [exec_gaddr, gaddrEffect]
  refine ⟨fun hcap hlegal => ?_, fun hcap => ?_, fun hcap hillegal => ?_⟩
  · rw [gscAddr_eq hcap hlegal, ← gscAddressWord_eq, ← gscAddressWord_eq]
    rfl
  · rw [gscAddr_capcodeRange_error hcap]
    rfl
  · rw [gscAddr_illegalCodeword_error hcap hillegal]
    rfl

/-! ### The data blocks -/

/-- Codeword `c` of a block carries unit `c`, and the eighth the sum of the seven units modulo 128 (R145, R276). -/
theorem gscBlock_isGscCodeword (u : Nat → BitVec 7) :
    (∀ c < 7, IsGscCodeword ((gscBlock ((List.range 7).map u)).getD c 0) (u c))
      ∧ IsGscCodeword ((gscBlock ((List.range 7).map u)).getD 7 0)
          (BitVec.ofNat 7 ((List.range 7).map fun c => (u c).toNat).sum) := by
  have hcodewords : ((List.range 7).map u |>.map bch15).length = 7 := by simp
  refine ⟨fun c hc => ?_, ?_⟩
  · rw [gscBlock, List.getD_append _ _ _ _ (by omega), List.getD_eq_getElem _ _ (by omega), List.getElem_map,
      List.getElem_map, List.getElem_range]
    exact bch15_isGscCodeword _
  · rw [gscBlock, List.getD_append_right _ _ _ _ (by omega), hcodewords]
    have hsum : gscSum ((List.range 7).map u) = BitVec.ofNat 7 ((List.range 7).map fun c => (u c).toNat).sum := by
      rw [gscSum, sumNat, List.map_map]
      rfl
    rw [← hsum]
    exact bch15_isGscCodeword _

theorem gscBlock_length (u : List (BitVec 7)) : (gscBlock u).length = u.length + 1 := by simp [gscBlock]

/-- The units are the low seven bits of WB[0..6] (R277). -/
theorem units_eq_map_range (s : State) : s.units = (List.range 7).map fun k => (Memory.read s.wb k).setWidth 7 :=
  List.map_map ..

/-- The words GBLK writes: the codewords of the units and of their checksum (R277). -/
def State.blockWords (s : State) : List Word := (gscBlock s.units).map fun h => h.setWidth 32

theorem blockWords_length (s : State) : s.blockWords.length = 8 := by
  rw [State.blockWords, List.length_map, gscBlock_length, units_length]

theorem setWords_blockWords (s : State) :
    s.setWords s.blockWords = { s with wb := s.wb.writeList 0 s.blockWords, wbLen := 8 } := by
  rw [State.setWords, blockWords_length]
  rfl

theorem exec_gblk (s : State) : exec .gblk s
    = .next (((s.setWords s.blockWords).setRes 0 ((gscSum s.units).setWidth 32)).endOk 0x62) := rfl

theorem read_blockWords (s : State) {j : Nat} (hj : j < 8) :
    Memory.read (s.wb.writeList 0 s.blockWords) j = ((gscBlock s.units).getD j 0).setWidth 32 := by
  rw [read_writeList_of_lt _ _ (by rwa [blockWords_length]), State.blockWords]
  exact List.getD_map (gscBlock s.units) 0 _

/-- Settles O58: the block of the units in WB, each codeword in its word. -/
theorem gblkCodesSevenUnits : Obligations.GblkCodesSevenUnits := by
  rintro s cs rfl
  obtain ⟨hunit, hsum⟩ := gscBlock_isGscCodeword fun k => (Memory.read s.wb k).setWidth 7
  rw [← units_eq_map_range] at hunit hsum
  refine ⟨_, exec_gblk s, ?_, fun j hj => ?_, fun j hj => ⟨_, read_blockWords s (by omega), ?_⟩,
    _, read_blockWords s (by decide), ?_⟩
  · rw [setWords_blockWords, ← sumNat_units, ← gscSum_setWidth]
    rfl
  · exact read_writeList_of_le _ _ (by rwa [blockWords_length])
  · rw [← BitVec.setWidth_eq_extractLsb' (by decide)]
    exact hunit j hj
  · have hchecksum (n : Nat) : BitVec.ofNat 7 (n % 128) = BitVec.ofNat 7 n := by
      apply BitVec.eq_of_toNat_eq
      simp
    rw [hchecksum]
    simpa using hsum

end Sys2Proof.Machine
end

section
/-! PROOF. The GSC frame and its commands TXGSCN and TXGSCA (45_gsc.md R278 to R285): the pieces of a transmission at
their places, the alternation of its two commas, and the checks in their order. -/

namespace Sys2Proof.Machine

/-! ### Pieces of a sequence -/

theorem getElem?_append_add {α : Type} {x y : List α} {n : Nat} (h : x.length = n) (i : Nat) :
    (x ++ y)[n + i]? = y[i]? := by
  rw [List.getElem?_append_right (by omega), h, Nat.add_sub_cancel_left]

/-- A whole run of entries, place by place. -/
theorem chunk_eq_map_range {α : Type} (n j : Nat) (s : List α) (d : α) (h : n * j + n ≤ s.length) :
    chunk n j s = (List.range n).map fun c => s.getD (n * j + c) d := by
  apply List.ext_getElem?
  intro i
  rcases Nat.lt_or_ge i n with hlt | hge
  · rw [chunk_getElem? n j s i hlt, List.getElem?_map, List.getElem?_range hlt, Option.map_some,
      List.getD_eq_getElem _ _ (by omega), List.getElem?_eq_getElem]
  · rw [List.getElem?_eq_none (by rwa [chunk_length n j s h]), List.getElem?_eq_none (by simpa using hge)]

/-! ### The commas -/

theorem alternating_getElem? {b : Bool} {n i : Nat} (hi : i < n) :
    (alternating b n)[i]? = some (b ^^ (i % 2 == 1)) := by
  rw [alternating, List.getElem?_map, List.getElem?_range hi, Option.map_some]

/-- Neighbouring places differ in parity. -/
theorem mod_two_succ (i : Nat) : ((i + 1) % 2 == 1) = !(i % 2 == 1) := by
  rcases Nat.mod_two_eq_zero_or_one i with h | h <;> simp [h, Nat.add_mod]

/-- The leading comma alternates without a break into what follows it (R279). -/
theorem gscCommaLead_alternates (p : Params) {pre rest : List Bool} (hpre : 0 < pre.length) {i : Nat}
    (hi : i < p.gscCommaLead) :
    (gscCommaLead p (pre.headD false) ++ (pre ++ rest)).getD i false
      = !(gscCommaLead p (pre.headD false) ++ (pre ++ rest)).getD (i + 1) false := by
  have hlen : (gscCommaLead p (pre.headD false)).length = p.gscCommaLead := alternating_length _ _
  have hbit {j : Nat} (hj : j < p.gscCommaLead) :
      (gscCommaLead p (pre.headD false) ++ (pre ++ rest)).getD j false
        = (!pre.headD false ^^ ((p.gscCommaLead - 1) % 2 == 1) ^^ (j % 2 == 1)) := by
    rw [List.getD_append _ _ _ _ (by rwa [hlen]), List.getD_eq_getElem?_getD, gscCommaLead, alternating_getElem? hj]
    rfl
  rw [hbit hi]
  rcases (by omega : i + 1 < p.gscCommaLead ∨ i + 1 = p.gscCommaLead) with hnext | hlast
  · rw [hbit hnext, mod_two_succ, Bool.xor_not, Bool.not_not]
  · obtain ⟨b, pre, rfl⟩ := List.exists_cons_of_length_pos hpre
    have hbefore : p.gscCommaLead - 1 = i := by omega
    rw [hbefore, List.getD_append_right _ _ _ _ (by omega), hlen, hlast, Nat.sub_self]
    simp

/-- The trailing comma alternates on from the bit before it (R279). -/
theorem gscCommaTrail_alternates (p : Params) {s : List Bool} (hs : 0 < s.length) {i : Nat}
    (hi : i < p.gscCommaTrail) :
    (s ++ gscCommaTrail p (s.getLastD false)).getD (s.length + i) false
      = !(s ++ gscCommaTrail p (s.getLastD false)).getD (s.length + i - 1) false := by
  have hbit {j : Nat} (hj : j < p.gscCommaTrail) :
      (s ++ gscCommaTrail p (s.getLastD false)).getD (s.length + j) false
        = (!s.getLastD false ^^ (j % 2 == 1)) := by
    rw [List.getD_eq_getElem?_getD, getElem?_append_add rfl, gscCommaTrail, alternating_getElem? hj]
    rfl
  rw [hbit hi]
  cases i with
  | zero =>
    rw [Nat.add_zero, List.getD_append _ _ _ _ (by omega), List.getLastD_eq_getLast?, List.getLast?_eq_getElem?,
      ← List.getD_eq_getElem?_getD]
    exact Bool.xor_false _
  | succ i => rw [← Nat.add_assoc, Nat.add_sub_cancel, hbit (by omega), mod_two_succ, Bool.xor_not]

/-! ### The pieces of a transmission -/

/-- The preamble sends its codeword 18 times, every bit twice (R280). -/
theorem gscPreamble_getElem? (p : Params) (k : Fin 10) {i : Nat} (hi : i < 828) :
    (gscPreamble p k)[i]?
      = some ((golay p.golayPoly (p.gscPreamble.toList.getD k.val 0)).getLsbD (22 - i % 46 / 2)) := by
  have hk : k.val < p.gscPreamble.toList.length := by
    rw [Vector.length_toList]
    exact k.isLt
  rw [List.getD_eq_getElem _ _ hk, Vector.getElem_toList]
  generalize hg : golay p.golayPoly p.gscPreamble[k.val] = g
  have hpieces : ∀ a ∈ List.replicate 18 (repeatBits 2 (bitsMsb g)), (id a).length = 46 := by
    intro a ha
    rw [List.eq_of_mem_replicate ha]
    simp
  have h := flatMap_getElem? id (Nat.mod_lt i (by decide)) _ hpieces (k := i / 46) (by simp; omega)
  rw [Nat.div_add_mod, List.getElem_replicate, List.flatMap_id] at h
  rw [gscPreamble, hg, h, id, repeatBits_getElem? (by decide), bitsMsb_getElem? _ (by omega)]

theorem golayComplement_getLsbD (g : BitVec 23) {i : Nat} (hi : i < 23) :
    (golayComplement g).getLsbD i = !g.getLsbD i := by
  have hones : 0x7FFFFF#23 = BitVec.allOnes 23 := rfl
  rw [golayComplement, hones, BitVec.xor_allOnes, BitVec.getLsbD_not, decide_eq_true hi, Bool.true_and]

section Start

variable {p : Params}

theorem gscStart_code {i : Nat} (hi : i < 23) :
    (gscStart p)[i]? = some ((golay p.golayPoly 713#12).getLsbD (22 - i)) := by
  rw [gscStart, List.append_assoc, List.getElem?_append_left (by simpa using hi), bitsMsb_getElem? _ hi]

theorem gscStart_transition : (gscStart p)[23]? = some (!(golay p.golayPoly 713#12).getLsbD 0) := by
  rw [gscStart, List.append_assoc]
  exact getElem?_append_add (bitsMsb_length _) 0

theorem gscStart_complement {i : Nat} (hi : i < 23) :
    (gscStart p)[24 + i]? = some (!(golay p.golayPoly 713#12).getLsbD (22 - i)) := by
  rw [gscStart, getElem?_append_add (by simp), bitsMsb_getElem? _ hi, golayComplement_getLsbD _ (by omega)]

end Start

/-- The bits of block `k`: the continuation bit, then the eight codewords (R282). -/
def gscBlockBits (q : List (BitVec 7)) (k : Nat) : List Bool :=
  decide (k + 1 < q.length / 7) :: (gscBlock (chunk 7 k q)).flatMap bitsMsb

section Blocks

variable {q : List (BitVec 7)} {k : Nat}

theorem gscBlock_chunk_length (hk : k < q.length / 7) : (gscBlock (chunk 7 k q)).length = 8 := by
  rw [gscBlock_length, chunk_length 7 k q (by omega)]

theorem gscBlockBits_length (hk : k < q.length / 7) : (gscBlockBits q k).length = 121 := by
  rw [gscBlockBits, List.length_cons, flatMap_bitsMsb_length, gscBlock_chunk_length hk]

/-- The blocks follow one another (R282). -/
theorem gscBlocks_getElem? (hk : k < q.length / 7) {i : Nat} (hi : i < 121) :
    (gscBlocks q)[121 * k + i]? = (gscBlockBits q k)[i]? := by
  have hpieces : ∀ a ∈ List.range (q.length / 7), (gscBlockBits q a).length = 121 := fun a ha =>
    gscBlockBits_length (List.mem_range.mp ha)
  have h := flatMap_getElem? (gscBlockBits q) hi _ hpieces (k := k) (by simpa using hk)
  rwa [List.getElem_range] at h

theorem gscBlockBits_codeword (hk : k < q.length / 7) {c i : Nat} (hc : c < 8) (hi : i < 15) :
    (gscBlockBits q k)[1 + 15 * c + i]? = some (((gscBlock (chunk 7 k q)).getD c 0).getLsbD (14 - i)) := by
  have hlen := gscBlock_chunk_length hk
  have hplace : 1 + 15 * c + i = 15 * c + i + 1 := by omega
  rw [gscBlockBits, hplace, List.getElem?_cons_succ,
    flatMap_getElem? bitsMsb hi _ (fun h _ => bitsMsb_length h) (by omega), bitsMsb_getElem? _ hi,
    List.getD_eq_getElem _ _ (by omega)]

/-- The codewords of block `k` are those of its seven characters and of their sum (R276). -/
theorem gscBlock_chunk_isGscCodeword (hk : k < q.length / 7) :
    (∀ c < 7, IsGscCodeword ((gscBlock (chunk 7 k q)).getD c 0) (q.getD (7 * k + c) 0))
      ∧ IsGscCodeword ((gscBlock (chunk 7 k q)).getD 7 0)
          (BitVec.ofNat 7 ((List.range 7).map fun c => (q.getD (7 * k + c) 0).toNat).sum) := by
  rw [chunk_eq_map_range 7 k q 0 (by omega)]
  exact gscBlock_isGscCodeword fun c => q.getD (7 * k + c) 0

end Blocks

/-! ### The bits of a transmission -/

section Transmission

variable (p : Params) (a1 a2 : BitVec 23) (idx : Fin 10) (q : List (BitVec 7))

/-- The leading comma of the preamble `idx` (R279). -/
def gscLead : List Bool := gscCommaLead p ((gscPreamble p idx).headD false)

/-- All that a transmission sends before the trailing comma (R282). -/
def gscBody : List Bool :=
  gscLead p idx ++ gscPreamble p idx ++ gscStart p ++ bitsMsb a1 ++ bitsMsb a2 ++ gscBlocks q

/-- The trailing comma (R279). -/
def gscTrail : List Bool := gscCommaTrail p ((gscBody p a1 a2 idx q).getLastD false)

theorem gscBits_eq_body : gscBits p a1 a2 idx q = gscBody p a1 a2 idx q ++ gscTrail p a1 a2 idx q := rfl

theorem gscBits_eq_pieces : gscBits p a1 a2 idx q
    = gscLead p idx ++ (gscPreamble p idx ++ (gscStart p ++ (bitsMsb a1 ++ (bitsMsb a2
        ++ (gscBlocks q ++ gscTrail p a1 a2 idx q))))) := by
  simp only [gscBits_eq_body, gscBody, List.append_assoc]

theorem gscLead_length : (gscLead p idx).length = p.gscCommaLead := alternating_length _ _

theorem gscBody_length : (gscBody p a1 a2 idx q).length = p.gscCommaLead + 921 + 121 * (q.length / 7) := by
  simp only [gscBody, List.length_append, gscLead_length, gscPreamble_length, gscStart_length, bitsMsb_length,
    gscBlocks_length]

variable {p a1 a2 idx q} {i : Nat}

theorem gscBits_preamble (hi : i < 828) :
    (gscBits p a1 a2 idx q)[p.gscCommaLead + i]? = (gscPreamble p idx)[i]? := by
  rw [gscBits_eq_pieces, getElem?_append_add (gscLead_length p idx),
    List.getElem?_append_left (by rwa [gscPreamble_length])]

theorem gscBits_start (hi : i < 47) :
    (gscBits p a1 a2 idx q)[p.gscCommaLead + 828 + i]? = (gscStart p)[i]? := by
  rw [gscBits_eq_pieces, Nat.add_assoc, getElem?_append_add (gscLead_length p idx),
    getElem?_append_add (gscPreamble_length p idx), List.getElem?_append_left (by rwa [gscStart_length])]

/-- After the start code come the address, the blocks and the comma (R282). -/
theorem gscBits_afterStart (i : Nat) : (gscBits p a1 a2 idx q)[p.gscCommaLead + 875 + i]?
    = (bitsMsb a1 ++ (bitsMsb a2 ++ (gscBlocks q ++ gscTrail p a1 a2 idx q)))[i]? := by
  have hplace : p.gscCommaLead + 875 + i = p.gscCommaLead + (828 + (47 + i)) := by omega
  rw [gscBits_eq_pieces, hplace, getElem?_append_add (gscLead_length p idx),
    getElem?_append_add (gscPreamble_length p idx), getElem?_append_add (gscStart_length p)]

theorem gscBits_address1 (hi : i < 23) :
    (gscBits p a1 a2 idx q)[p.gscCommaLead + 828 + 47 + i]? = some (a1.getLsbD (22 - i)) := by
  have hplace : p.gscCommaLead + 828 + 47 + i = p.gscCommaLead + 875 + i := by omega
  rw [hplace, gscBits_afterStart, List.getElem?_append_left (by simpa using hi), bitsMsb_getElem? _ hi]

theorem gscBits_address2 (hi : i < 23) :
    (gscBits p a1 a2 idx q)[p.gscCommaLead + 828 + 47 + 23 + i]? = some (a2.getLsbD (22 - i)) := by
  have hplace : p.gscCommaLead + 828 + 47 + 23 + i = p.gscCommaLead + 875 + (23 + i) := by omega
  rw [hplace, gscBits_afterStart, getElem?_append_add (bitsMsb_length a1),
    List.getElem?_append_left (by simpa using hi), bitsMsb_getElem? _ hi]

theorem gscBits_block {k : Nat} (hk : k < q.length / 7) (hi : i < 121) :
    (gscBits p a1 a2 idx q)[p.gscCommaLead + 921 + 121 * k + i]? = (gscBlockBits q k)[i]? := by
  have hplace : p.gscCommaLead + 921 + 121 * k + i = p.gscCommaLead + 875 + (23 + (23 + (121 * k + i))) := by omega
  rw [hplace, gscBits_afterStart, getElem?_append_add (bitsMsb_length a1), getElem?_append_add (bitsMsb_length a2),
    List.getElem?_append_left (by rw [gscBlocks_length]; omega), gscBlocks_getElem? hk hi]

variable (p a1 a2 idx q)

/-- Every bit of the page is that of R279 to R282. -/
theorem gscBits_isGscTransmission :
    IsGscTransmission (gscBits p a1 a2 idx q) p (golay p.golayPoly (p.gscPreamble.toList.getD idx.val 0)) a1 a2
      (q.length / 7) q := by
  refine ⟨gscBits_length p a1 a2 idx q, fun i hi => ?_, fun i hi => ?_, fun i hi => ?_, ?_, fun i hi => ?_,
    fun i hi => gscBits_address1 hi, fun i hi => gscBits_address2 hi, fun k hk => ⟨?_, ?_⟩, fun i hi => ?_⟩
  · rw [gscBits_eq_pieces]
    exact gscCommaLead_alternates p (by rw [gscPreamble_length]; decide) hi
  · rw [gscBits_preamble hi, gscPreamble_getElem? p idx hi]
  · rw [gscBits_start (by omega), gscStart_code hi]
  · rw [gscBits_start (by decide), gscStart_transition]
  · rw [Nat.add_assoc _ 24, gscBits_start (by omega), gscStart_complement hi]
  · exact gscBits_block hk (i := 0) (by decide)
  · obtain ⟨hunits, hsum⟩ := gscBlock_chunk_isGscCodeword hk
    refine ⟨fun c => (gscBlock (chunk 7 k q)).getD c 0, hunits, hsum, fun c hc i hi => ?_⟩
    have hplace : p.gscCommaLead + 921 + 121 * k + 1 + 15 * c + i
        = p.gscCommaLead + 921 + 121 * k + (1 + 15 * c + i) := by omega
    rw [hplace, gscBits_block hk (by omega), gscBlockBits_codeword hk hc hi]
  · rw [gscBits_eq_body, ← gscBody_length p a1 a2 idx q]
    exact gscCommaTrail_alternates p (by rw [gscBody_length]; omega) hi

end Transmission

/-! ### The codes of a message -/

/-- A byte that no pair of a table names has no code (R278). -/
theorem tableMap_eq_none_iff (table : List (Byte × BitVec 7)) (c : Byte) :
    tableMap table c = none ↔ c ∉ table.map (·.1) := by
  rw [tableMap, Option.map_eq_none_iff, List.find?_eq_none, List.mem_map]
  simp only [beq_iff_eq, not_exists, not_and]

section Codes

variable {p : Params} {table : List (Byte × BitVec 7)} {m : List Byte} {ks : List (BitVec 7)}

/-- The codes of a mapped message with the fill of its last block (R278). -/
def gscFilled (p : Params) (ks : List (BitVec 7)) : List (BitVec 7) :=
  ks ++ List.replicate (7 * ceilDiv ks.length 7 - ks.length) p.gscFill

theorem gscFilled_length (p : Params) (ks : List (BitVec 7)) : (gscFilled p ks).length = 7 * ceilDiv ks.length 7 := by
  have h := ceilDiv_mul_ge ks.length 7 (by decide)
  rw [gscFilled, List.length_append, List.length_replicate]
  omega

theorem gscCodes_eq (hks : m.map (tableMap table) = ks.map some) : gscCodes p table m = .ok (gscFilled p ks) := by
  have hlen : m.length = ks.length := by simpa using congrArg List.length hks
  exact (gscCodes_ok_iff ..).mpr ⟨ks, hks, by rw [gscFilled, hlen]⟩

/-- The check of the characters (R278). -/
theorem gscCodes_eq_error (h : ∃ c ∈ m, c ∉ table.map (·.1)) :
    gscCodes p table m = .error (.inputValidation .character) := by
  simp only [← tableMap_eq_none_iff] at h
  rw [gscCodes, (encodeChars_error_iff ..).mpr ⟨h, rfl⟩, error_bind]

end Codes

/-! ### The checks of the frame commands -/

/-- The transmission that pages `cap` with the character codes `ks` (R278, R282). -/
def gscPage (p : Params) (cap : Word) (ks : List (BitVec 7)) : List Bool :=
  gscBits p (gscAddress1 p cap.toNat) (gscAddress2 p cap.toNat) (gscPreambleIndex cap.toNat) (gscFilled p ks)

/-- The number of bits of a page of `l` characters (R282). -/
def gscPageLength (p : Params) (l : Nat) : Nat :=
  p.gscCommaLead + 828 + 47 + 46 + 121 * ((l + 6) / 7) + p.gscCommaTrail

theorem gscFilled_blocks (p : Params) (ks : List (BitVec 7)) : (gscFilled p ks).length / 7 = (ks.length + 6) / 7 := by
  rw [gscFilled_length, Nat.mul_div_cancel_left _ (by decide)]
  rfl

theorem gscPage_length (p : Params) (cap : Word) (ks : List (BitVec 7)) :
    (gscPage p cap ks).length = gscPageLength p ks.length := by
  rw [gscPage, gscBits_length, gscFilled_blocks, gscPageLength]

/-- What the first five checks of R285 let pass. -/
structure State.GscReady (s : State) : Prop where
  configured : s.cfgOk = true
  soleCapcode : s.capCount = 1
  capcodeInRange : s.cap[0].toNat ≤ 999999
  tripleLegal : gscTriple s.cap[0].toNat ∉ gscIllegalTriples s.params s.cap[0].toNat
  messageNonempty : 1 ≤ s.msgLen.toNat
  messageFits : s.msgLen.toNat ≤ 256

section FrameCommands

variable {s : State} {table : List (Byte × BitVec 7)}

theorem gscFrame_notConfigured_error (hc : s.cfgOk = false) (opc : Byte) :
    s.endCommand opc (gscFrameEffect table s) = s.reportError 3 1 opc := by
  rw [gscFrameEffect, requireConfigured_eq_error hc]
  rfl

theorem gscFrame_capCount_error (hc : s.cfgOk = true) (hn : s.capCount ≠ 1) (opc : Byte) :
    s.endCommand opc (gscFrameEffect table s) = s.reportError 1 5 opc := by
  rw [gscFrameEffect, requireConfigured_eq hc, ok_bind, soleCapcode_eq_error hn]
  rfl

/-- With CFG_OK and one capcode a frame command forms its address words (R283). -/
theorem gscFrameEffect_eq (hc : s.cfgOk = true) (hn : s.capCount = 1) :
    gscFrameEffect table s = gscAddr s.params s.cap[0] >>= fun a => s.message >>= fun m =>
      gscCodes s.params table m >>= fun q => s.queueFrame (gscBits s.params a.1 a.2.1 a.2.2 q) := by
  rw [gscFrameEffect, requireConfigured_eq hc, ok_bind, soleCapcode_eq hn, ok_bind]

section OneCapcode

variable (hc : s.cfgOk = true) (hn : s.capCount = 1)

include hc hn

theorem gscFrame_capcodeRange_error (hcap : 999999 < s.cap[0].toNat) (opc : Byte) :
    s.endCommand opc (gscFrameEffect table s) = s.reportError 1 1 opc := by
  rw [gscFrameEffect_eq hc hn, gscAddr_capcodeRange_error hcap]
  rfl

theorem gscFrame_illegalCodeword_error (hcap : s.cap[0].toNat ≤ 999999)
    (hillegal : gscTriple s.cap[0].toNat ∈ gscIllegalTriples s.params s.cap[0].toNat) (opc : Byte) :
    s.endCommand opc (gscFrameEffect table s) = s.reportError 1 4 opc := by
  rw [gscFrameEffect_eq hc hn, gscAddr_illegalCodeword_error hcap hillegal]
  rfl

theorem gscFrame_length_error (hcap : s.cap[0].toNat ≤ 999999)
    (hlegal : gscTriple s.cap[0].toNat ∉ gscIllegalTriples s.params s.cap[0].toNat)
    (hlen : s.msgLen.toNat = 0 ∨ 256 < s.msgLen.toNat) (opc : Byte) :
    s.endCommand opc (gscFrameEffect table s) = s.reportError 1 2 opc := by
  rw [gscFrameEffect_eq hc hn, gscAddr_eq hcap hlegal, ok_bind, message_eq_error hlen]
  rfl

end OneCapcode

/-- Past the first five checks a frame command maps its message. -/
theorem gscFrame_character_error (h : s.GscReady)
    (hchar : ∃ c ∈ Memory.readList s.msg s.msgLen.toNat, c ∉ table.map (·.1)) (opc : Byte) :
    s.endCommand opc (gscFrameEffect table s) = s.reportError 1 3 opc := by
  rw [gscFrameEffect_eq h.configured h.soleCapcode, gscAddr_eq h.capcodeInRange h.tripleLegal, ok_bind,
    message_eq h.messageNonempty h.messageFits, ok_bind, gscCodes_eq_error hchar]
  rfl

/-- A mapped message past the first five checks is queued as its page (R283, R284). -/
theorem State.GscReady.effect_eq (h : s.GscReady) {ks : List (BitVec 7)}
    (hks : (Memory.readList s.msg s.msgLen.toNat).map (tableMap table) = ks.map some) :
    gscFrameEffect table s = s.queueFrame (gscPage s.params s.cap[0] ks) := by
  rw [gscFrameEffect_eq h.configured h.soleCapcode, gscAddr_eq h.capcodeInRange h.tripleLegal, ok_bind,
    message_eq h.messageNonempty h.messageFits, ok_bind, gscCodes_eq hks]
  rfl

theorem codes_length_eq_msgLen {ks : List (BitVec 7)}
    (hks : (Memory.readList s.msg s.msgLen.toNat).map (tableMap table) = ks.map some) :
    ks.length = s.msgLen.toNat := by
  have hlen := congrArg List.length hks
  rw [List.length_map, List.length_map, Memory.readList_length] at hlen
  exact hlen.symm

end FrameCommands

/-! ### TXGSCN and TXGSCA -/

/-- Both commands are the frame effect with their table (R283, R284). -/
theorem exec_gscFrame {i : Instr} {s : State} {table : List (Byte × BitVec 7)}
    (hi : (i = .txgscn ∧ table = s.params.gscNumMap) ∨ (i = .txgsca ∧ table = s.params.gscAlphaMap)) :
    exec i s = .next (s.endCommand (opcode i) (gscFrameEffect table s)) := by
  rcases hi with ⟨rfl, rfl⟩ | ⟨rfl, rfl⟩
  · rfl
  · rfl

/-- Settles O59: the mapped message past all checks is queued as its page. -/
theorem txgscQueuesPage : Obligations.TxgscQueuesPage := by
  rintro i s _ ks table _ _ _ _ _ len _ _ _ hi rfl rfl rfl rfl rfl rfl rfl hlen rfl rfl hc hn hcap hlegal h1 h256 hks
    hroom
  have hready : s.GscReady := ⟨hc, hn, hcap, hlegal, h1, h256⟩
  have hcount : ks.length = s.msgLen.toNat := codes_length_eq_msgLen hks
  have hpage : (gscPage s.params s.cap[0] ks).length = len := by
    rw [gscPage_length, hcount, gscPageLength, hlen]
  refine ⟨gscPage s.params s.cap[0] ks, ?_, ?_⟩
  · rw [exec_gscFrame hi, hready.effect_eq hks, endCommand_queueFrame_of_le (by rwa [hpage]), hpage]
  · have hframe := gscBits_isGscTransmission s.params (gscAddress1 s.params s.cap[0].toNat)
      (gscAddress2 s.params s.cap[0].toNat) (gscPreambleIndex s.cap[0].toNat) (gscFilled s.params ks)
    rw [gscFilled_blocks, gscFilled, hcount] at hframe
    rw [← gscAddressWord_eq, ← gscAddressWord_eq, gscPage, gscFilled, hcount]
    exact hframe

/-- Settles O60: one lemma for each check of the frame effect, the overflow by the length of the page. -/
theorem gscChecksComeInOrder : Obligations.GscChecksComeInOrder := by
  rintro i s _ table _ len _ _ hi rfl rfl rfl rfl hlen
  rw [exec_gscFrame hi]
  refine ⟨fun hc => ?_, fun hc hn => ?_, fun hc hn => ⟨fun hcap => ?_, fun hcap hillegal => ?_, fun hcap hlegal =>
    ⟨fun hrange => ?_, fun h1 h256 => ⟨fun hchar => ?_, fun hchar hfull => ?_⟩⟩⟩⟩
  · rw [gscFrame_notConfigured_error hc]
  · rw [gscFrame_capCount_error hc hn]
  · rw [gscFrame_capcodeRange_error hc hn hcap]
  · rw [gscFrame_illegalCodeword_error hc hn hcap hillegal]
  · rw [gscFrame_length_error hc hn hcap hlegal hrange]
  · rw [gscFrame_character_error ⟨hc, hn, hcap, hlegal, h1, h256⟩ hchar]
  · obtain ⟨ks, hks⟩ := exists_map_eq_map_some (f := tableMap table) (m := Memory.readList s.msg s.msgLen.toNat)
      fun c hc => by simpa only [ne_eq, tableMap_eq_none_iff, not_not] using hchar c hc
    have hpage : (gscPage s.params s.cap[0] ks).length = len := by
      rw [gscPage_length, codes_length_eq_msgLen hks, gscPageLength, hlen]
    rw [State.GscReady.effect_eq ⟨hc, hn, hcap, hlegal, h1, h256⟩ hks, endCommand_queueFrame_of_lt (by rwa [hpage])]

end Sys2Proof.Machine
end

section
/-! PROOF. Errors stop nothing and leave nothing behind: the machine always answers a next state, a failed command
changes STATUS alone, and CFG_OK gates the ten commands that append to the FIFO and no other (R314 to R317, R324,
R325). -/

namespace Sys2Proof.Machine

/-! ### A failing command -/

/-- Settles O14: of the two ways to fail, one keeps the state and the other is SETRATE's. -/
theorem failingCommandChangesOnlyStatus : Obligations.FailingCommandChangesOnlyStatus := by
  intro i s t h hresult
  cases ended_of_exec h with
  | ok _ => exact absurd rfl hresult
  | error hf e =>
    cases hf with
    | kept hi => rw [if_neg hi]; rfl
    | cleared => rw [if_pos rfl]; rfl

/-! ### The machine goes on -/

/-- With no access to come MIXCORE is idle (R324). -/
theorem step_idle {s : State} (h : s.pending = []) : step s = .next s := by
  simp only [step, h]

/-- The host asserts reset (R340). -/
theorem step_reset {s : State} {rest : List HostAccess} (h : s.pending = .reset :: rest) :
    step s = .next (State.hostReset { s with pending := rest }) := by
  simp only [step, h]

/-- Whatever is written to CMD, a command or none, is answered by a next state. -/
theorem exists_runCommand_eq_next (c : Word) (s : State) : ∃ t, runCommand c s = .next t := by
  cases hdecode : decode c with
  | ok i =>
    obtain ⟨t, hexec, _⟩ := exec_ended i s
    exact ⟨t, (runCommand_of_decode hdecode s).trans hexec⟩
  | error e => exact ⟨_, runCommand_of_decode_error hdecode s⟩

/-- Every access of the host is answered by a next state. -/
theorem exists_step_eq_next (s : State) : ∃ t, step s = .next t := by
  cases hpending : s.pending with
  | nil => exact ⟨s, step_idle hpending⟩
  | cons access rest =>
    cases access with
    | read a => exact ⟨_, step_read hpending⟩
    | reset => exact ⟨_, step_reset hpending⟩
    | write a v =>
      by_cases ha : a = cmdAddr
      · subst ha
        rw [step_write_cmdAddr hpending]
        exact exists_runCommand_eq_next v _
      · exact ⟨_, step_write_of_ne_cmdAddr ha hpending⟩

/-- Settles O10, by the kinds of access and the ends of a command. -/
theorem machineNeverStops : Obligations.MachineNeverStops := by
  refine ⟨exists_step_eq_next, fun i s => ?_, fun _ => step_idle⟩
  obtain ⟨t, hexec, _⟩ := exec_ended i s
  exact ⟨t, hexec⟩

/-! ### The gated commands -/

/-- Each gated command opens with the check of CFG_OK (R325). -/
theorem exec_gated_eq_requireConfigured_bind {i : Instr} (hi : i ∈ cfgGated) (s : State) :
    ∃ f : Unit → Except CmdError State,
      exec i s = .next (s.endCommand (opcode i) (s.requireConfigured >>= f)) := by
  simp only [cfgGated, List.mem_cons, List.not_mem_nil, or_false] at hi
  rcases hi with rfl | rfl | rfl | rfl | rfl | rfl | rfl | rfl | rfl | rfl
  all_goals exact ⟨_, rfl⟩

/-- Unconfigured, the check fails and nothing after it runs. -/
theorem exec_gated_of_not_cfgOk {i : Instr} (hi : i ∈ cfgGated) {s : State} (hc : s.cfgOk = false) :
    exec i s = .next (s.reportError 3 1 (opcode i)) := by
  obtain ⟨f, hexec⟩ := exec_gated_eq_requireConfigured_bind hi s
  rw [hexec, requireConfigured_eq_error hc]
  rfl

/-! ### What raises no NOT_CONFIGURED -/

/-- The computation `r` does not end in CONFIGURATION(NOT_CONFIGURED). -/
def ConfigFree {α : Type} (r : Except CmdError α) : Prop := r ≠ .error (.configuration .notConfigured)

section ConfigFree

variable {α β : Type}

theorem ConfigFree.ok (a : α) : ConfigFree (.ok a) := nofun

theorem ConfigFree.error {e : CmdError} (he : e ≠ .configuration .notConfigured) :
    ConfigFree (.error e : Except CmdError α) := fun h => he (Except.error.inj h)

theorem ConfigFree.bind {r : Except CmdError α} {f : α → Except CmdError β} (hr : ConfigFree r)
    (hf : ∀ a, ConfigFree (f a)) : ConfigFree (r >>= f) := by
  intro h
  obtain h | ⟨a, _, h⟩ := (bind_error_iff r f _).mp h
  · exact hr h
  · exact hf a h

theorem ConfigFree.map {r : Except CmdError α} (hr : ConfigFree r) (f : α → β) : ConfigFree (r.map f) := by
  cases r with
  | ok a => exact .ok _
  | error e => exact .error fun he => hr (congrArg _ he)

/-- A check raises the error it names. -/
theorem ConfigFree.require {e : CmdError} (he : e ≠ .configuration .notConfigured) (b : Bool) :
    ConfigFree (require b e) := fun h => he ((require_error_iff b e _).mp h).2

/-- A check of a command's inputs (R311) is not the check of CFG_OK. -/
theorem ConfigFree.inputCheck (d : InputDetail) (b : Bool) : ConfigFree (Machine.require b (.inputValidation d)) :=
  .require (by nofun) b

/-- An input check and then a value: the shape of the operand readers and of the field encoders. -/
theorem ConfigFree.inputCheck_ok (d : InputDetail) (b : Bool) (a : α) :
    ConfigFree (Machine.require b (.inputValidation d) >>= fun _ => .ok a) :=
  .bind (.inputCheck d b) fun _ => .ok a

end ConfigFree

/-! ### The operand readers and the encoders -/

theorem message_configFree (s : State) : ConfigFree s.message := .inputCheck_ok _ _ _

theorem words_configFree (s : State) : ConfigFree s.words := .inputCheck_ok _ _ _

theorem encodeChars_configFree {α : Type} (f : Byte → Option α) (m : List Byte) : ConfigFree (encodeChars f m) :=
  fun h => nomatch ((encodeChars_error_iff f m _).mp h).2

theorem literalBits_configFree (m : List Byte) : ConfigFree (literalBits m) := by
  induction m with
  | nil => exact .ok _
  | cons c m ih =>
    rw [literalBits]
    split
    next => exact ih.map _
    next =>
      split
      next => exact ih.map _
      next =>
        split
        next => exact ih
        next => exact .error nofun

theorem pocsagNumWords_configFree (m : List Byte) : ConfigFree (pocsagNumWords m) :=
  .bind (encodeChars_configFree _ _) fun _ => .ok _

theorem pocsagAlphaWords_configFree (m : List Byte) : ConfigFree (pocsagAlphaWords m) :=
  .bind (encodeChars_configFree _ _) fun _ => .ok _

theorem flexNumWords_configFree (m : List Byte) : ConfigFree (flexNumWords m) :=
  .bind (.inputCheck _ _) fun _ => .bind (encodeChars_configFree _ _) fun _ => .ok _

theorem flexAlphaWords_configFree (p : Params) (m : List Byte) (h : Word) : ConfigFree (flexAlphaWords p m h) :=
  .bind (.inputCheck _ _) fun _ => .bind (encodeChars_configFree _ _) fun _ => .ok _

theorem gscPagerid_configFree (p : Params) (cap : Word) : ConfigFree (gscPagerid p cap) :=
  .bind (.inputCheck _ _) fun _ => .inputCheck_ok _ _ _

theorem gscAddr_configFree (p : Params) (cap : Word) : ConfigFree (gscAddr p cap) :=
  .bind (gscPagerid_configFree p cap) fun _ => .ok _

/-! ### The effects of the commands outside the ten -/

section Effects

variable (s : State)

/-- The check of BCH31 is INVARIANT_VIOLATION (R104). -/
theorem bch31Effect_configFree : ConfigFree (bch31Effect s) := .bind (.require (by nofun) _) fun _ => .ok _

theorem bvlitEffect_configFree : ConfigFree (bvlitEffect s) :=
  .bind (message_configFree s) fun m => .bind (literalBits_configFree m) fun _ => .ok _

theorem fxasumEffect_configFree : ConfigFree (fxasumEffect s) := .bind (words_configFree s) fun _ => .ok _

theorem fxnsumEffect_configFree : ConfigFree (fxnsumEffect s) := .bind (words_configFree s) fun _ => .ok _

theorem paddrEffect_configFree : ConfigFree (paddrEffect s) := .bind (.inputCheck_ok _ _ _) fun _ => .ok _

/-- A POCSAG word builder raises what its words do, beside its own checks. -/
theorem pocsagMessageEffect_configFree {build : List Byte → Except CmdError (List Word)}
    (hbuild : ∀ m, ConfigFree (build m)) : ConfigFree (pocsagMessageEffect build s) :=
  .bind (message_configFree s) fun m => .bind (hbuild m) fun _ => .inputCheck_ok _ _ _

theorem fsaddrEffect_configFree : ConfigFree (fsaddrEffect s) := .bind (.inputCheck_ok _ _ _) fun _ => .ok _

theorem fbiwEffect_configFree : ConfigFree (fbiwEffect s) := .bind (.inputCheck_ok _ _ _) fun _ => .ok _

theorem fvecnEffect_configFree : ConfigFree (fvecnEffect s) := .bind (.inputCheck_ok _ _ _) fun _ => .ok _

theorem fvecaEffect_configFree : ConfigFree (fvecaEffect s) := .bind (.inputCheck_ok _ _ _) fun _ => .ok _

theorem fmsgnEffect_configFree : ConfigFree (fmsgnEffect s) :=
  .bind (message_configFree s) fun m => .bind (flexNumWords_configFree m) fun _ => .ok _

theorem fmsgaEffect_configFree : ConfigFree (fmsgaEffect s) :=
  .bind (message_configFree s) fun m => .bind (flexAlphaWords_configFree s.params m _) fun _ => .inputCheck_ok _ _ _

theorem gpidEffect_configFree : ConfigFree (gpidEffect s) := .bind (gscPagerid_configFree s.params _) fun _ => .ok _

theorem gaddrEffect_configFree : ConfigFree (gaddrEffect s) := .bind (gscAddr_configFree s.params _) fun _ => .ok _

end Effects

/-! ### The report of the commands outside the ten -/

/-- STATUS reports CONFIGURATION(NOT_CONFIGURED) (R310, R311). -/
def State.ReportsNotConfigured (t : State) : Prop := t.result = 3 ∧ t.detail = 1

/-- No other error has the codes of NOT_CONFIGURED. -/
theorem reportsNotConfigured_endError_iff (s : State) (e : CmdError) (opc : Byte) :
    (s.endError e opc).ReportsNotConfigured ↔ e = .configuration .notConfigured := by
  unfold State.ReportsNotConfigured
  cases e with
  | configuration d => cases d <;> simp [errorResult, errorDetail, configDetailCode]
  | _ => simp [errorResult]

/-- A command that completes reports RESULT 0. -/
theorem not_reportsNotConfigured_endOk (s : State) (opc : Byte) : ¬ (s.endOk opc).ReportsNotConfigured :=
  fun ⟨hresult, _⟩ => nomatch hresult

/-- A command given by its effect reports NOT_CONFIGURED only where the effect raises it. -/
theorem ConfigFree.endCommand {r : Except CmdError State} (hr : ConfigFree r) (s : State) (opc : Byte) :
    ¬ (s.endCommand opc r).ReportsNotConfigured := by
  cases r with
  | ok t => exact not_reportsNotConfigured_endOk t opc
  | error e => exact fun h => hr (congrArg _ ((reportsNotConfigured_endError_iff s e opc).mp h))

/-- SETRATE raises the two other errors of CONFIGURATION. -/
theorem execSetrate_not_reportsNotConfigured (s : State) :
    ∃ t, exec .setrate s = .next t ∧ ¬ t.ReportsNotConfigured := by
  refine ⟨_, rfl, ?_⟩
  split
  next => exact fun h => nomatch (reportsNotConfigured_endError_iff _ _ _).mp h
  next =>
    split
    next => exact fun h => nomatch (reportsNotConfigured_endError_iff _ _ _).mp h
    next => exact not_reportsNotConfigured_endOk _ _

/-- A command that does not append to the FIFO does not ask for a configuration, whatever CFG_OK is (R325). -/
theorem exec_not_reportsNotConfigured {i : Instr} (hi : i ∉ cfgGated) (s : State) :
    ∃ t, exec i s = .next t ∧ ¬ t.ReportsNotConfigured := by
  cases i with
  | pushbit | pushraw | pushbv | intlv | txpocn | txpoca | txflxn | txflxa | txgscn | txgsca =>
    exact absurd (by decide) hi
  | setpol | rev32 | epar | golay | bch15 | fxcsum | gscsum | pop | depth | empty | fcw | ffiw | gblk =>
    exact ⟨_, rfl, not_reportsNotConfigured_endOk _ _⟩
  | setrate => exact execSetrate_not_reportsNotConfigured s
  | bch31 => exact ⟨_, rfl, (bch31Effect_configFree s).endCommand s _⟩
  | bvlit => exact ⟨_, rfl, (bvlitEffect_configFree s).endCommand s _⟩
  | fxasum => exact ⟨_, rfl, (fxasumEffect_configFree s).endCommand s _⟩
  | fxnsum => exact ⟨_, rfl, (fxnsumEffect_configFree s).endCommand s _⟩
  | paddr => exact ⟨_, rfl, (paddrEffect_configFree s).endCommand s _⟩
  | pmsgn => exact ⟨_, rfl, (pocsagMessageEffect_configFree s pocsagNumWords_configFree).endCommand s _⟩
  | pmsga => exact ⟨_, rfl, (pocsagMessageEffect_configFree s pocsagAlphaWords_configFree).endCommand s _⟩
  | fsaddr => exact ⟨_, rfl, (fsaddrEffect_configFree s).endCommand s _⟩
  | fbiw => exact ⟨_, rfl, (fbiwEffect_configFree s).endCommand s _⟩
  | fvecn => exact ⟨_, rfl, (fvecnEffect_configFree s).endCommand s _⟩
  | fveca => exact ⟨_, rfl, (fvecaEffect_configFree s).endCommand s _⟩
  | fmsgn => exact ⟨_, rfl, (fmsgnEffect_configFree s).endCommand s _⟩
  | fmsga => exact ⟨_, rfl, (fmsgaEffect_configFree s).endCommand s _⟩
  | gpid => exact ⟨_, rfl, (gpidEffect_configFree s).endCommand s _⟩
  | gaddr => exact ⟨_, rfl, (gaddrEffect_configFree s).endCommand s _⟩

/-- Settles O16: the gated commands open with the check, and the others have no step that raises its error. -/
theorem onlyAppendersNeedConfiguration : Obligations.OnlyAppendersNeedConfiguration := by
  refine fun i s hc => ⟨fun hi => exec_gated_of_not_cfgOk hi hc, fun hi t hexec => ?_⟩
  obtain ⟨t', hexec', hreport⟩ := exec_not_reportsNotConfigured hi s
  obtain rfl : t' = t := Host.Outcome.next.inj (hexec'.symm.trans hexec)
  exact hreport

end Sys2Proof.Machine
end

section
/-! PROOF. What one step can be, said once for every kind of access, and two rules of every run: the parameters stay,
and the FIFO is a queue (R343, R350). -/

namespace Sys2Proof.Machine

/-! ### What one step can be -/

/-- What one step leaves: one constructor for each kind of host access (R60, R62, R340), and for a write of CMD one
for a command's end and one for a value that is no command (R81). -/
inductive Stepped (s : State) : State → Prop
  | idle (hpending : s.pending = []) : Stepped s s
  | read {a rest} (hpending : s.pending = .read a :: rest) :
      Stepped s { s with pending := rest, readData := some (s.memRead a) }
  | reset {rest} (hpending : s.pending = .reset :: rest) : Stepped s (State.hostReset { s with pending := rest })
  | write {a v rest} (ha : a ≠ cmdAddr) (hpending : s.pending = .write a v :: rest) :
      Stepped s (State.memWrite { s with pending := rest } a v)
  | command {c rest i t} (hpending : s.pending = .write cmdAddr c :: rest) (hdecode : decode c = .ok i)
      (hended : Ended { s with pending := rest } i t) : Stepped s t
  | illegal {c rest e} (hpending : s.pending = .write cmdAddr c :: rest) (hdecode : decode c = .error e) :
      Stepped s (State.illegalCommand { s with pending := rest } c)

section

variable {s t u : State} {i : Instr}

/-- The inversion of `step`. -/
theorem stepped_of_step (h : step s = .next t) : Stepped s t := by
  cases hpending : s.pending with
  | nil =>
    obtain rfl := Host.Outcome.next.inj ((step_idle hpending).symm.trans h)
    exact .idle hpending
  | cons access rest =>
    cases access with
    | read a =>
      obtain rfl := Host.Outcome.next.inj ((step_read hpending).symm.trans h)
      exact .read hpending
    | reset =>
      obtain rfl := Host.Outcome.next.inj ((step_reset hpending).symm.trans h)
      exact .reset hpending
    | write a v =>
      by_cases ha : a = cmdAddr
      · subst ha
        rw [step_write_cmdAddr hpending] at h
        cases hdecode : decode v with
        | ok i => exact .command hpending hdecode (ended_of_exec ((runCommand_of_decode hdecode _).symm.trans h))
        | error e =>
          obtain rfl := Host.Outcome.next.inj ((runCommand_of_decode_error hdecode _).symm.trans h)
          exact .illegal hpending hdecode
      · obtain rfl := Host.Outcome.next.inj ((step_write_of_ne_cmdAddr ha hpending).symm.trans h)
        exact .write ha hpending

/-! ### The parameters -/

/-- A host write reaches neither the FIFO nor the parameters, whatever its index (R39). -/
theorem memWrite_fifo_params (s : State) (a : RegAddr) (v : Word) :
    (s.memWrite a v).fifo = s.fifo ∧ (s.memWrite a v).params = s.params := by
  unfold State.memWrite
  split
  next r _ =>
    obtain ⟨_, _, hfifo, _, hparams⟩ := writeReg_frame s r v
    exact ⟨hfifo, hparams⟩
  next => exact ⟨rfl, rfl⟩

theorem Ended.params_eq (h : Ended s i t) : t.params = s.params := by
  cases h with
  | ok hc =>
    obtain ⟨_, _, _, _, _, hparams, _, _⟩ := hc.inputs_eq
    exact hparams
  | error hf e => cases hf <;> rfl

theorem Stepped.params_eq (h : Stepped s t) : t.params = s.params := by
  cases h with
  | idle => rfl
  | read => rfl
  | reset => rfl
  | write =>
    obtain ⟨_, hparams⟩ := memWrite_fifo_params { s with pending := _ } _ _
    exact hparams
  | command _ _ hended => exact hended.params_eq
  | illegal => rfl

end

/-- Settles O13: a command, a host write and a reset each leave the parameters. -/
theorem parametersNeverChange : Obligations.ParametersNeverChange := fun _ _ h => (stepped_of_step h).params_eq

/-! ### The FIFO over one step -/

section

variable {s t u : State} {i : Instr}

/-- The queue `b` holds a suffix of what `a` held and of what stands in `b` past the length of `a`: the queue grew at
its tail or lost entries at its head. -/
def QueueAdvances (a b : List Bool) : Prop := b <:+ a ++ b.drop a.length

theorem QueueAdvances.append (a x : List Bool) : QueueAdvances a (a ++ x) := by
  rw [QueueAdvances, List.drop_left]

theorem QueueAdvances.of_suffix {a b : List Bool} (h : b <:+ a) : QueueAdvances a b :=
  h.trans (by rw [List.drop_eq_nil_of_le h.length_le, List.append_nil])

theorem QueueAdvances.of_eq {a b : List Bool} (h : b = a) : QueueAdvances a b :=
  .of_suffix (h ▸ List.suffix_rfl)

/-- A completed command appends, pops, or leaves the FIFO (R160, R165). -/
theorem Completed.queueAdvances (h : Completed s i u) : QueueAdvances s.fifo u.fifo := by
  cases h with
  | append => exact .append _ _
  | pop => exact .of_suffix (List.drop_suffix _ _)
  | _ => exact .of_eq rfl

theorem Ended.queueAdvances (h : Ended s i t) : QueueAdvances s.fifo t.fifo := by
  cases h with
  | ok hc => exact hc.queueAdvances
  | error hf e => exact .of_eq hf.fifo_eq

/-- A reset is no exception: it empties the FIFO, and the empty queue is a suffix of any (R341). -/
theorem Stepped.queueAdvances (h : Stepped s t) : QueueAdvances s.fifo t.fifo := by
  cases h with
  | idle => exact .of_eq rfl
  | read => exact .of_eq rfl
  | reset => exact .of_suffix List.nil_suffix
  | write =>
    obtain ⟨hfifo, _⟩ := memWrite_fifo_params { s with pending := _ } _ _
    exact .of_eq hfifo
  | command _ _ hended => exact hended.queueAdvances
  | illegal => exact .of_eq rfl

/-! ### The FIFO over a run -/

theorem run_succ_of_step (h : step s = .next u) (k : Nat) :
    Host.Core.run Sys2Proof.core (k + 1) s = Host.Core.run Sys2Proof.core k u := by
  simp only [Host.Core.run, Host.Check.core_step, h]

theorem appendHistory_succ_of_step (h : step s = .next u) (k : Nat) :
    appendHistory (k + 1) s = u.fifo.drop s.fifo.length ++ appendHistory k u := by
  simp only [appendHistory, h]

/-- The FIFO after `k` steps, by induction on the steps: the first step's suffix carries what the others append. -/
theorem fifo_suffix_of_run {k : Nat} (h : Host.Core.run Sys2Proof.core k s = .next t) :
    t.fifo <:+ s.fifo ++ appendHistory k s := by
  induction k generalizing s with
  | zero =>
    obtain rfl : s = t := Host.Outcome.next.inj h
    rw [appendHistory, List.append_nil]
  | succ k ih =>
    obtain ⟨u, hstep⟩ := exists_step_eq_next s
    have hrest : t.fifo <:+ u.fifo ++ appendHistory k u := ih ((run_succ_of_step hstep k).symm.trans h)
    have hfirst : u.fifo <:+ s.fifo ++ u.fifo.drop s.fifo.length := (stepped_of_step hstep).queueAdvances
    rw [appendHistory_succ_of_step hstep, ← List.append_assoc]
    exact hrest.trans (List.suffix_append_self_iff.mpr hfirst)

end

/-- Settles O18: the rule over every run, of which a run without a reset is one. -/
theorem fifoHoldsSuffixOfAppends : Obligations.FifoHoldsSuffixOfAppends := fun _ _ _ _ h => fifo_suffix_of_run h

end Sys2Proof.Machine
end
